-- ==== Sys2Proof/Word.lean ====
section
/-! DEFINITION. The one word of this hardware: the 8-bit byte (spec/00_scope.md R11, R13). -/

namespace Sys2Proof

/-- "A byte is 8 bits, unsigned, values 0 to 255" (R13). -/
abbrev Byte := BitVec 8

end Sys2Proof
end

