-- ==== Sys2Proof/Config.lean ====
section
/-! DEFINITION. What an instance fixes (spec/00_scope.md R10), and the values the spec leaves free. -/

namespace Sys2Proof

/-- `SET_LEN_POLICY`: which lengths a SET_LED_COLOR payload may have (R10; 92_eei_decisions.md D6). -/
inductive SetLenPolicy where
  /-- Exactly 5 payload bytes. -/
  | exact
  /-- At least 5 payload bytes; the bytes after index 4 are ignored. -/
  | atLeast
  deriving DecidableEq, Repr, Inhabited

/-- The configuration parameters of one instance, fixed at instantiation (R10). `CAPACITY` is held as its highest
index, so that exactly the legal range 1 to 256 can be written (DESIGN CHOICE, safe: notes/assumptions/10.md). -/
structure Config where
  /-- `CAPACITY - 1`: the headroom index, and the longest payload. -/
  headroomIndex : Byte
  /-- `SINK_PRESENT`. -/
  sinkPresent : Bool
  /-- `SET_LEN_POLICY`. -/
  setLenPolicy : SetLenPolicy
  deriving DecidableEq, Repr

/-- "The maximum decoded payload length is `CAPACITY - 1` bytes" (R12). -/
def Config.maxPayload (c : Config) : Nat := c.headroomIndex.toNat

/-- `CAPACITY`, 1 to 256 (R10). -/
def Config.capacity (c : Config) : Nat := c.maxPayload + 1

/-- The policy of this hardware is OPEN (R10; 90_conflicts.md C6): a constant with no body, so that no proof can know
which of the two it is (safe: notes/assumptions/2.md). -/
opaque Config.openPolicy : SetLenPolicy

/-- The values R10 gives for this hardware: `CAPACITY` 32, `SINK_PRESENT` true, `SET_LEN_POLICY` open. -/
def Config.thisHardware : Config where
  headroomIndex := 31
  sinkPresent := true
  setLenPolicy := Config.openPolicy

/-- A byte of `frame_buffer` that nothing has written since reset: "unspecified (any value)" (10_state.md R31). The
arguments are the number of the instance, that of the reset and the index, so that reading it again gives the same byte
(20_memory.md R43) and nothing is known of it across two resets or two instances (DESIGN CHOICE, safe:
notes/assumptions/3.md). -/
opaque Config.freeByte : Nat → Nat → Nat → Byte

/-- How many events of a step were presented before a reset that fell inside it: "of unspecified length, from none to
all" (70_reset_and_hazards.md R192). The arguments are the number of the instance and that of the reset (DESIGN CHOICE,
safe: notes/assumptions/7.md). -/
opaque Config.freeCut : Nat → Nat → Nat

/-- The level of `rx_ready` in a transfer with `rst` high, of which the spec says only that no byte is accepted in it
(60_exceptions.md R173). The arguments are as above (DESIGN CHOICE, safe: notes/assumptions/18.md). -/
opaque Config.freeReady : Nat → Nat → Bool

end Sys2Proof
end

