-- ==== Sys2Proof/Machine/Constants.lean ====
section
/-! DEFINITION. The values the source fixes (spec/00_scope.md R11; 30_encoding.md R61, R67, R68), each named once, as
93_implementation_defined.md I5 asks of literals that nobody has audited. -/

namespace Sys2Proof

/-- START, the marker that opens a frame (R61). -/
abbrev markStart : Byte := 0xFF#8
/-- END, the marker that closes a frame (R61). -/
abbrev markEnd : Byte := 0xFE#8
/-- ESCAPE, the marker before a literal byte (R61). -/
abbrev markEscape : Byte := 0xFD#8
/-- Message type REQUEST (R67). -/
abbrev typeRequest : Byte := 0x00#8
/-- Message type RESPONSE (R67). -/
abbrev typeResponse : Byte := 0x01#8
/-- Opcode SET_LED_COLOR (R68). -/
abbrev opSetColor : Byte := 0x00#8
/-- Opcode GET_LED_COLOR (R68). -/
abbrev opGetColor : Byte := 0x01#8
/-- The Set-colour acknowledgement value (R11, R68). -/
abbrev ackValue : Byte := 0x01#8

/-- The three values a compliant sender must escape (R61, R72). -/
def isMarker (b : Byte) : Bool := b == markStart || b == markEnd || b == markEscape

end Sys2Proof
end

