-- ==== Sys2Proof/Syntax.lean ====
section
/-! DEFINITION. The instructions of the block: one constructor for each of the 15 rows of spec/opcode_table.json, and the
forms their encodings take (spec/30_encoding.md R76). -/

namespace Sys2Proof

/-- The rows of spec/opcode_table.json. An input byte is classified by the decoder's state (30_encoding.md R62), a
payload by the dispatcher (41_command_dispatcher.md R121), a response frame is one of two shapes (42_frame_encoder.md
R140), and reset is an event of its own (70_reset_and_hazards.md R190). -/
inductive Instr where
  /-- `RX_IDLE_START` (R103). -/
  | rxIdleStart
  /-- `RX_IDLE_IGNORE` (R104): `b` is 0x00 to 0xFE. -/
  | rxIdleIgnore (b : Byte)
  /-- `RX_ESCAPED_LITERAL` (R105): any `b`. -/
  | rxEscapedLiteral (b : Byte)
  /-- `RX_ESCAPE` (R106). -/
  | rxEscape
  /-- `RX_END` (R107). -/
  | rxEnd
  /-- `RX_DATA` (R108): `b` is 0x00 to 0xFC or 0xFF. -/
  | rxData (b : Byte)
  /-- `DISPATCH_SHORT` (R122): the payload, 0 or 1 bytes. -/
  | dispatchShort (p : List Byte)
  /-- `DISPATCH_NOT_REQUEST` (R123): `messageType` is not 0x00. -/
  | dispatchNotRequest (messageType opcode : Byte) (args : List Byte)
  /-- `SET_LED_COLOR` (R124): `extra` are the bytes after index 4, which only `AT_LEAST` lets through. -/
  | setLedColor (r g b : Byte) (extra : List Byte)
  /-- `SET_LED_COLOR_BADLEN` (R125): `args` are the bytes after index 1, of a wrong number. -/
  | setLedColorBadlen (args : List Byte)
  /-- `GET_LED_COLOR` (R126): `args` are the bytes after index 1, which are ignored. -/
  | getLedColor (args : List Byte)
  /-- `DISPATCH_UNKNOWN_OPCODE` (R127): `opcode` is 0x02 to 0xFF. -/
  | dispatchUnknownOpcode (opcode : Byte) (args : List Byte)
  /-- `RESP_ACK` (R141). -/
  | respAck
  /-- `RESP_COLOR` (R142): the three result bytes. -/
  | respColor (r g b : Byte)
  /-- `RESET` (R190). -/
  | reset
  deriving DecidableEq, Repr

/-- The mnemonic of spec/opcode_table.json, letter for letter. -/
def Instr.mnemonic : Instr → String
  | .rxIdleStart => "RX_IDLE_START"
  | .rxIdleIgnore _ => "RX_IDLE_IGNORE"
  | .rxEscapedLiteral _ => "RX_ESCAPED_LITERAL"
  | .rxEscape => "RX_ESCAPE"
  | .rxEnd => "RX_END"
  | .rxData _ => "RX_DATA"
  | .dispatchShort _ => "DISPATCH_SHORT"
  | .dispatchNotRequest _ _ _ => "DISPATCH_NOT_REQUEST"
  | .setLedColor _ _ _ _ => "SET_LED_COLOR"
  | .setLedColorBadlen _ => "SET_LED_COLOR_BADLEN"
  | .getLedColor _ => "GET_LED_COLOR"
  | .dispatchUnknownOpcode _ _ => "DISPATCH_UNKNOWN_OPCODE"
  | .respAck => "RESP_ACK"
  | .respColor _ _ _ => "RESP_COLOR"
  | .reset => "RESET"

/-- The four formats of spec/opcode_table.json, each with the key its rows are matched on (R76). -/
inductive Encoding where
  /-- `RX8`: `frame_open << 9 | escape_pending << 8 | byte`. -/
  | rx (key : BitVec 10)
  /-- `REQ`: the whole payload, whose first two bytes are the key. -/
  | req (payload : List Byte)
  /-- `RESP`: the emitted bytes. -/
  | resp (bytes : List Byte)
  /-- `CTRL`: the reset input. -/
  | ctrl (rst : Bool)
  deriving DecidableEq, Repr

/-- Why an encoding stands for no instruction. Input bytes and payloads never meet one: they are never refused
(R71, R76). -/
inductive DecodeError where
  /-- Bytes that are neither of the two response frames, which the encoder never emits (R70). -/
  | notAResponse
  /-- A payload longer than `CAPACITY - 1` bytes, which the decoder never delivers (R73). -/
  | payloadTooLong
  /-- The reset input is low: no control event. -/
  | resetNotAsserted
  deriving DecidableEq, Repr

/-- What decoding an encoding answers. -/
inductive Decoded where
  | instr (i : Instr)
  | rejected (why : DecodeError)
  deriving DecidableEq, Repr

end Sys2Proof
end

