-- ==== Sys2Proof/WellFormed.lean ====
section
/-! DEFINITION. Which operands an instruction may carry: the conditions of spec/opcode_table.json's rows. -/

namespace Sys2Proof

/-- May a SET_LED_COLOR carry this many bytes after its opcode? (41_command_dispatcher.md R121: `n < 5` never, `n = 5`
always, `n > 5` only under `AT_LEAST`.) -/
def setArgsAccepted (policy : SetLenPolicy) (nArgs : Nat) : Bool :=
  nArgs == 3 || (decide (3 < nArgs) && policy == .atLeast)

/-- The row's condition, and no payload longer than `CAPACITY - 1` (30_encoding.md R73). -/
def Instr.wellFormed (cfg : Config) : Instr → Bool
  | .rxIdleStart => true
  | .rxIdleIgnore b => b != markStart
  | .rxEscapedLiteral _ => true
  | .rxEscape => true
  | .rxEnd => true
  | .rxData b => b != markEscape && b != markEnd
  | .dispatchShort p => decide (p.length < 2) && decide (p.length ≤ cfg.maxPayload)
  | .dispatchNotRequest messageType _ args => messageType != typeRequest && decide (args.length + 2 ≤ cfg.maxPayload)
  | .setLedColor _ _ _ extra =>
      setArgsAccepted cfg.setLenPolicy (extra.length + 3) && decide (extra.length + 5 ≤ cfg.maxPayload)
  | .setLedColorBadlen args =>
      !setArgsAccepted cfg.setLenPolicy args.length && decide (args.length + 2 ≤ cfg.maxPayload)
  | .getLedColor args => decide (args.length + 2 ≤ cfg.maxPayload)
  | .dispatchUnknownOpcode opcode args =>
      opcode != opSetColor && opcode != opGetColor && decide (args.length + 2 ≤ cfg.maxPayload)
  | .respAck => true
  | .respColor _ _ _ => true
  | .reset => true

end Sys2Proof
end

