-- ==== Sys2Proof/Decode.lean ====
section
/-! DEFINITION. Decoding at the block's three levels and its control input (spec/30_encoding.md R62, R66, R70, R76), the
encoder written from the same tables, the rows of spec/opcode_table.json as masks and patterns, and the sender's
pseudo-forms (R75). -/

namespace Sys2Proof

/-! ## Input bytes -/

/-- The class of an input byte: the table of R62, in the test order of 40_frame_decoder.md R102. -/
def decodeRx (frameOpen escapePending : Bool) (b : Byte) : Instr :=
  if frameOpen = false then
    if b = markStart then .rxIdleStart else .rxIdleIgnore b
  else if escapePending = true then .rxEscapedLiteral b
  else if b = markEscape then .rxEscape
  else if b = markEnd then .rxEnd
  else .rxData b

/-- Bit 9 of an `RX8` key (R76). -/
def rxKeyFrameOpen (key : BitVec 10) : Bool := key.getLsbD 9

/-- Bit 8 of an `RX8` key (R76). -/
def rxKeyEscapePending (key : BitVec 10) : Bool := key.getLsbD 8

/-- Bits 7 to 0 of an `RX8` key (R76). -/
def rxKeyByte (key : BitVec 10) : Byte := key.extractLsb' 0 8

/-- `frame_open << 9 | escape_pending << 8 | byte` (R76). -/
def rxKey (frameOpen escapePending : Bool) (b : Byte) : BitVec 10 :=
  BitVec.ofBool frameOpen ++ (BitVec.ofBool escapePending ++ b)

/-! ## Payloads -/

/-- A request with opcode SET_LED_COLOR, by the number of bytes after the opcode (41_command_dispatcher.md R121, R124,
R125). The policy is asked only where it decides: for more than three bytes. -/
def decodeSet (policy : SetLenPolicy) : List Byte → Instr
  | [r, g, b] => .setLedColor r g b []
  | r :: g :: b :: x :: rest =>
    match policy with
    | .exact => .setLedColorBadlen (r :: g :: b :: x :: rest)
    | .atLeast => .setLedColor r g b (x :: rest)
  | args => .setLedColorBadlen args

/-- The class of a payload: the dispatcher's order of tests, length below 2, message type, opcode, SET length
(41_command_dispatcher.md R121). Total: "it is never refused" (R76). -/
def decodePayload (policy : SetLenPolicy) : List Byte → Instr
  | messageType :: opcode :: args =>
    if messageType ≠ typeRequest then .dispatchNotRequest messageType opcode args
    else if opcode = opSetColor then decodeSet policy args
    else if opcode = opGetColor then .getLedColor args
    else .dispatchUnknownOpcode opcode args
  | p => .dispatchShort p

/-! ## Response frames -/

/-- The two response frames (R70), told apart by their length. -/
def decodeResponse : List Byte → Decoded
  | [s, t, a, e] =>
    if s = markStart ∧ t = typeResponse ∧ a = ackValue ∧ e = markEnd then .instr .respAck
    else .rejected .notAResponse
  | [s, t, r, g, b, e] =>
    if s = markStart ∧ t = typeResponse ∧ e = markEnd then .instr (.respColor r g b) else .rejected .notAResponse
  | _ => .rejected .notAResponse

/-! ## All levels -/

/-- Total on every encoding; what stands for no instruction is rejected by name. -/
def decode (cfg : Config) : Encoding → Decoded
  | .rx key => .instr (decodeRx (rxKeyFrameOpen key) (rxKeyEscapePending key) (rxKeyByte key))
  | .req payload =>
    if payload.length ≤ cfg.maxPayload then .instr (decodePayload cfg.setLenPolicy payload)
    else .rejected .payloadTooLong
  | .resp bytes => decodeResponse bytes
  | .ctrl rst => if rst = true then .instr .reset else .rejected .resetNotAsserted

/-- The encoding of an instruction, from the tables of R62, R66, R68 and R70; the bit a row does not look at
(`escape_pending` while no frame is open) is written 0, as in every reachable state (10_state.md R30). -/
def encode : Instr → Encoding
  | .rxIdleStart => .rx (rxKey false false markStart)
  | .rxIdleIgnore b => .rx (rxKey false false b)
  | .rxEscapedLiteral b => .rx (rxKey true true b)
  | .rxEscape => .rx (rxKey true false markEscape)
  | .rxEnd => .rx (rxKey true false markEnd)
  | .rxData b => .rx (rxKey true false b)
  | .dispatchShort p => .req p
  | .dispatchNotRequest messageType opcode args => .req (messageType :: opcode :: args)
  | .setLedColor r g b extra => .req (typeRequest :: opSetColor :: r :: g :: b :: extra)
  | .setLedColorBadlen args => .req (typeRequest :: opSetColor :: args)
  | .getLedColor args => .req (typeRequest :: opGetColor :: args)
  | .dispatchUnknownOpcode opcode args => .req (typeRequest :: opcode :: args)
  | .respAck => .resp [markStart, typeResponse, ackValue, markEnd]
  | .respColor r g b => .resp [markStart, typeResponse, r, g, b, markEnd]
  | .reset => .ctrl true

/-- The encoding with the one bit no row looks at cleared: `escape_pending` while `frame_open` is 0 (R62: "`x` means
either value"). -/
def canonical : Encoding → Encoding
  | .rx key => if rxKeyFrameOpen key = false then .rx (rxKey false false (rxKeyByte key)) else .rx key
  | e => e

/-! ## The rows of spec/opcode_table.json -/

/-- A row's `match` and `mask`, over the key of its format. -/
structure TableRow where
  pattern : Nat
  mask : Nat
  deriving DecidableEq, Repr

/-- `key AND mask = match` (R76). -/
def TableRow.accepts (row : TableRow) (key : Nat) : Bool := key &&& row.mask == row.pattern

/-- Bytes as one number, the first the most significant. -/
def bytesToNat (bytes : List Byte) : Nat := bytes.foldl (fun acc b => acc * 256 + b.toNat) 0

/-- The key an encoding is matched on (R76). A payload of fewer than two bytes has no bytes to match: its row's mask is
0 and its length decides. -/
def Encoding.key : Encoding → Nat
  | .rx key => key.toNat
  | .req (messageType :: opcode :: _) => bytesToNat [messageType, opcode]
  | .req _ => 0
  | .resp bytes => bytesToNat bytes
  | .ctrl rst => rst.toNat

/-- The `match` and `mask` of the instruction's row, as spec/opcode_table.json has them. -/
def Instr.tableRow : Instr → TableRow
  | .rxIdleStart => ⟨0x0FF, 0x2FF⟩
  | .rxIdleIgnore _ => ⟨0x000, 0x200⟩
  | .rxEscapedLiteral _ => ⟨0x300, 0x300⟩
  | .rxEscape => ⟨0x2FD, 0x3FF⟩
  | .rxEnd => ⟨0x2FE, 0x3FF⟩
  | .rxData _ => ⟨0x200, 0x300⟩
  | .dispatchShort _ => ⟨0x0000, 0x0000⟩
  | .dispatchNotRequest _ _ _ => ⟨0x0000, 0x0000⟩
  | .setLedColor _ _ _ _ => ⟨0x0000, 0xFFFF⟩
  | .setLedColorBadlen _ => ⟨0x0000, 0xFFFF⟩
  | .getLedColor _ => ⟨0x0001, 0xFFFF⟩
  | .dispatchUnknownOpcode _ _ => ⟨0x0000, 0xFF00⟩
  | .respAck => ⟨0xFF0101FE, 0xFFFFFFFF⟩
  | .respColor _ _ _ => ⟨0xFF01000000FE, 0xFFFF000000FF⟩
  | .reset => ⟨1, 1⟩

/-- The six `RX8` rows in the order of their `priority`, each with its class for the byte `b`. -/
def rxRows (b : Byte) : List Instr :=
  [.rxIdleStart, .rxIdleIgnore b, .rxEscapedLiteral b, .rxEscape, .rxEnd, .rxData b]

/-- "Rows are tried in the order of their `priority` field, and the first row that matches wins" (R76). -/
def firstRxRow (key : BitVec 10) : Option Instr :=
  (rxRows (rxKeyByte key)).find? fun i => i.tableRow.accepts key.toNat

/-! ## The sender's pseudo-forms (R75) -/

/-- `LIT(x)`: `ESC x` if x is a marker, otherwise `x`. -/
def stuff (b : Byte) : List Byte := if isMarker b then [markEscape, b] else [b]

/-- `FRAME(p0, ..., pn-1)`: `START LIT(p0) ... LIT(pn-1) END`. -/
def frameBytes (p : List Byte) : List Byte := markStart :: (p.flatMap stuff ++ [markEnd])

/-- `REQ_SET(r, g, b)` is `FRAME(00, 00, r, g, b)`. -/
def requestSet (r g b : Byte) : List Byte := frameBytes [typeRequest, opSetColor, r, g, b]

/-- `REQ_GET` is `FRAME(00, 01)`. -/
def requestGet : List Byte := frameBytes [typeRequest, opGetColor]

/-- `RESP(q0, ..., qm-1)`: `START 01 q0 ... qm-1 END`, unescaped. -/
def responseBytes (q : List Byte) : List Byte := markStart :: typeResponse :: (q ++ [markEnd])

/-! ## Words numbered as the table numbers them -/

/-- The byte of `w` whose lowest bit is bit `lo`. -/
def byteAt (w lo : Nat) : Byte := BitVec.ofNat 8 (w >>> lo)

/-- The encoding that a word of `nbits` bits stands for (DESIGN CHOICE: notes/assumptions/13.md). Up to 8 bits: the
reset input, bit 0. Up to 15: an `RX8` key. 16: both the 10-bit `RX8` keys (in whole bytes) and the `REQ` keys have this
width; a word is an `RX8` key where `frame_open` is set and no bit above it is, and at 0x00FF, and a `REQ` key elsewhere.
The SET key 0x0000 is followed by its three operand bytes, which the table gives no bits. 32 and 48: a response frame,
first byte most significant. -/
def tableEncoding (nbits w : Nat) : Option Encoding :=
  if nbits ≤ 8 then some (.ctrl (w % 2 == 1))
  else if nbits < 16 then some (.rx (BitVec.ofNat 10 w))
  else if nbits = 16 then
    if w = 0x00FF ∨ (0x200 ≤ w ∧ w < 0x400) then some (.rx (BitVec.ofNat 10 w))
    else if w = 0 then some (.req [typeRequest, opSetColor, 0, 0, 0])
    else some (.req [byteAt w 8, byteAt w 0])
  else if nbits = 32 then some (.resp [byteAt w 24, byteAt w 16, byteAt w 8, byteAt w 0])
  else if nbits = 48 then
    some (.resp [byteAt w 40, byteAt w 32, byteAt w 24, byteAt w 16, byteAt w 8, byteAt w 0])
  else none

/-- The instruction the decoder reads from a word of `nbits` bits, numbered as spec/opcode_table.json numbers them. -/
def decodeTableWord (nbits w : Nat) : Option Instr :=
  match tableEncoding nbits w with
  | none => none
  | some e =>
    match decode Config.thisHardware e with
    | .instr i => some i
    | .rejected _ => none

end Sys2Proof
end

