-- ==== Sys2Proof/Machine/State.lean ====
section
/-! DEFINITION. The state of one instance (spec/10_state.md R20), its parameters (00_scope.md R10), the host's inputs and
the output trace (43_sequencer.md R153, R155), the reasons a step can stop, and the state after reset (R31). -/

namespace Sys2Proof.Machine

/-- One event of a step (43_sequencer.md R153). -/
inductive Event where
  /-- `Frame(p)`: the payload handed from decoder to dispatcher; internal, an observation only. -/
  | frame (p : List Byte)
  /-- `Apply(r, g, b)`: one call of `applyColor`. -/
  | apply (r g b : Byte)
  /-- `Emit(b)`: one call of `emitByte`. -/
  | emit (b : Byte)
  deriving DecidableEq, Repr

/-- What the host does on `rst`, `rx_valid` and `rx_data` in one transfer, between two steps of the block
(43_sequencer.md R155, R156, R162). -/
inductive Transfer where
  /-- `rst` low, `rx_valid` low. -/
  | idle
  /-- `rst` low, `rx_valid` high with `rx_data = b`: the byte is accepted, since `rx_ready` is high between steps. -/
  | byte (b : Byte)
  /-- `rst` high; `offered` is the byte offered in the same transfer, if any (60_exceptions.md R173). -/
  | reset (offered : Option Byte)
  /-- The byte is accepted, and `rst` rises before the step's last event has been presented
  (70_reset_and_hazards.md R192). -/
  | byteCut (b : Byte)
  deriving DecidableEq, Repr

/-- Bytes by index: strictly rising indices, and only the indices that were written since reset. -/
abbrev Memory := List Host.Cell

/-- One instance of the block. Every field is plain data. -/
structure State where
  /-- The parameters of R10. No operation changes them (notes/assumptions/1.md). -/
  cfg : Config
  /-- `frame_open`, 1 bit (R24). -/
  frameOpen : Bool
  /-- `escape_pending`, 1 bit (R23). -/
  escapePending : Bool
  /-- `write_cursor`, 8 bits (R22). -/
  writeCursor : BitVec 8
  /-- `frame_buffer` (R21). -/
  frameBuffer : Memory
  /-- `color_r` (R25). -/
  colorR : Byte
  /-- `color_g` (R25). -/
  colorG : Byte
  /-- `color_b` (R25). -/
  colorB : Byte
  /-- The host's transfers still to come, the next one first (notes/assumptions/5.md). -/
  inputs : List Transfer
  /-- The events so far, oldest first (R153; notes/assumptions/6.md). -/
  trace : List Event
  /-- The MODEL's own counter of resets, an index of the free values (notes/assumptions/4.md). -/
  draws : Nat
  /-- The MODEL's own number of the instance, the other index of the free values: no step reads it for anything else,
  and none changes it (notes/assumptions/4.md). -/
  endpoint : Nat
  deriving DecidableEq, Repr

/-- Why a step can stop. The block itself has no fault (60_exceptions.md R170). -/
inductive Fault where
  /-- `MemRead` outside the indices for which 00_scope.md R14 defines it. Raised by RX_END where `write_cursor` is above
  `CAPACITY - 1`, in no state of the block (10_state.md R22, R30). Safe. -/
  | bufferIndexOutOfRange
  deriving DecidableEq, Repr

/-- Why an instruction has no meaning. -/
inductive Refusal where
  /-- The arm of `exec` has no meaning yet. Safe. No arm raises it. -/
  | notModelled (mnemonic : String)
  deriving DecidableEq, Repr

/-- The state after reset, on this hardware (10_state.md R31): flags, cursor and colour 0, nothing of the buffer known. -/
def State.reset : State where
  cfg := Config.thisHardware
  frameOpen := false
  escapePending := false
  writeCursor := 0
  frameBuffer := []
  colorR := 0
  colorG := 0
  colorB := 0
  inputs := []
  trace := []
  draws := 0
  endpoint := 0

end Sys2Proof.Machine
end

