-- ==== Sys2Proof/Machine/Ops.lean ====
section
/-! DEFINITION. The named operations over `frame_buffer`, the colour registers, the trace and reset: the pseudocode
primitives of spec/00_scope.md R14, `append` (40_frame_decoder.md R101), `encodeResponse` (42_frame_encoder.md R140) and
reset (70_reset_and_hazards.md R190). The block takes no exception (60_exceptions.md R170, R174), so there is no
operation for one. -/

namespace Sys2Proof.Machine

/-! ## Memory: one byte per index -/

/-- What an index nothing has written since reset holds: no known byte ("unspecified (any value)", 10_state.md R31). -/
def Memory.unlisted : Option Byte := none

/-- The byte written at index `a`, if any. -/
def Memory.read : Memory → Nat → Option Byte
  | [], _ => Memory.unlisted
  | (k, v) :: rest, a => if k = a then some v else Memory.read rest a

/-- Write one byte, keeping the indices strictly rising. -/
def Memory.write : Memory → Nat → Byte → Memory
  | [], a, v => [(a, v)]
  | (k, w) :: rest, a, v =>
    if a < k then (a, v) :: (k, w) :: rest
    else if a = k then (a, v) :: rest
    else (k, w) :: Memory.write rest a v

/-- The canonical form: indices strictly rising. No entry can equal what an unlisted index reads as, which is no
byte at all. -/
abbrev Memory.wf (m : Memory) : Prop := (m.map Prod.fst).Pairwise (· < ·)

/-! ## frame_buffer -/

/-- The byte at index `i`: what was written there since reset, else the free byte of this instance, reset and index
(10_state.md R31, R32; notes/assumptions/3.md). Reading has no side effect (20_memory.md R43). -/
def State.readBuffer (s : State) (i : Nat) : Byte :=
  (Memory.read s.frameBuffer i).getD (Config.freeByte s.endpoint s.draws i)

/-- `MemRead(i, n)`, "defined for `0 <= i` and `i + n <= CAPACITY - 1`" (00_scope.md R14): the bytes in index order. -/
def State.memRead (s : State) (i n : Nat) : Option (List Byte) :=
  if i + n ≤ s.cfg.maxPayload then some ((List.range' i n).map s.readBuffer) else none

/-- `MemWrite(i, 1, v)` (00_scope.md R14; 20_memory.md R42). -/
def State.memWrite (s : State) (i : Nat) (v : Byte) : State :=
  { s with frameBuffer := Memory.write s.frameBuffer i v }

/-- The payload an END would deliver: `MemRead(0, write_cursor)` (20_memory.md R43). -/
def State.payload (s : State) : Option (List Byte) := s.memRead 0 s.writeCursor.toNat

/-- `append(b)` (40_frame_decoder.md R101): stored while `write_cursor < CAPACITY - 1`, else dropped. -/
def State.append (s : State) (b : Byte) : State :=
  if s.writeCursor < s.cfg.headroomIndex then
    { s.memWrite s.writeCursor.toNat b with writeCursor := s.writeCursor + 1 }
  else s

/-! ## Events -/

/-- Append one event to the trace (00_scope.md R14). -/
def State.record (s : State) (e : Event) : State := { s with trace := s.trace ++ [e] }

/-- `deliver(p)`: the observation `Frame(p)`. -/
def State.deliver (s : State) (p : List Byte) : State := s.record (.frame p)

/-- `apply(r, g, b)`: `applyColor` is always connected (41_command_dispatcher.md R129). -/
def State.applyColor (s : State) (r g b : Byte) : State := s.record (.apply r g b)

/-- `emit(b)`: "appends the event `Emit(b)` to the output trace if `SINK_PRESENT`, and does nothing otherwise". -/
def State.emit (s : State) (b : Byte) : State := if s.cfg.sinkPresent = true then s.record (.emit b) else s

/-- `emit` each byte in order. -/
def State.emitAll (s : State) (bytes : List Byte) : State := bytes.foldl State.emit s

/-- `encodeResponse(P)` (42_frame_encoder.md R140): START, the RESPONSE tag, the result bytes unescaped, END. -/
def State.encodeResponse (s : State) (result : List Byte) : State :=
  (((s.emit markStart).emit typeResponse).emitAll result).emit markEnd

/-! ## Colour registers -/

/-- The write of `color_r`, `color_g`, `color_b` (41_command_dispatcher.md R124). -/
def State.setColor (s : State) (r g b : Byte) : State := { s with colorR := r, colorG := g, colorB := b }

/-! ## Reset -/

/-- Reset (70_reset_and_hazards.md R190): every field of 10_state.md R31 at its value, the buffer unspecified anew, no
event. The parameters, the host's inputs and the events already presented are not the block's state. -/
def State.applyReset (s : State) : State :=
  { s with
    frameOpen := false
    escapePending := false
    writeCursor := 0
    frameBuffer := []
    colorR := 0
    colorG := 0
    colorB := 0
    draws := s.draws + 1 }

/-- What is left of a step that a reset cut short: the events it presented are a prefix, of free length, of the events
of the whole step `whole` (70_reset_and_hazards.md R192; notes/assumptions/7.md). -/
def State.cutTrace (s whole : State) : State :=
  { s with trace := s.trace ++ (whole.trace.drop s.trace.length).take (Config.freeCut s.endpoint s.draws) }

end Sys2Proof.Machine
end

