-- ==== Sys2Proof/Machine/Control.lean ====
section
/-! DEFINITION. The meaning of the reset event (spec/70_reset_and_hazards.md R190). -/

namespace Sys2Proof.Machine

/-- `RESET` (R190). -/
def execReset (s : State) : Host.Outcome State Fault Refusal := .next s.applyReset

end Sys2Proof.Machine
end

