-- ==== Sys2Proof/Machine/Flags.lean ====
section
/-! DEFINITION. The two state bits `frame_open` and `escape_pending` (spec/10_state.md R28, R29): their writes, and the
sequence position they make together. The block has no arithmetic flags. -/

namespace Sys2Proof.Machine

/-- The states of the decoder (R28). -/
inductive Position where
  | idle
  | inFrame
  | escaped
  | unreachable
  deriving DecidableEq, Repr

/-- The position the pair `(frame_open, escape_pending)` names (R28). -/
def State.position (s : State) : Position :=
  match s.frameOpen, s.escapePending with
  | false, false => .idle
  | true, false => .inFrame
  | true, true => .escaped
  | false, true => .unreachable

/-- `frame_open <- 1` (40_frame_decoder.md R103). -/
def State.openFrame (s : State) : State := { s with frameOpen := true }

/-- `escape_pending <- 1` (40_frame_decoder.md R106). -/
def State.armEscape (s : State) : State := { s with escapePending := true }

/-- `escape_pending <- 0` (40_frame_decoder.md R105). -/
def State.clearEscape (s : State) : State := { s with escapePending := false }

/-- `write_cursor <- 0`; `frame_open <- 0` (40_frame_decoder.md R107). -/
def State.closeFrame (s : State) : State := { s with writeCursor := 0, frameOpen := false }

end Sys2Proof.Machine
end

