-- ==== Sys2Proof/Machine/Decoder.lean ====
section
/-! DEFINITION. The meanings of the six input-byte classes (spec/40_frame_decoder.md R103 to R108). Each is the class's
pseudocode; the payload RX_END returns is `State.payload` of the state before it, which the sequencer hands on. -/

namespace Sys2Proof.Machine

/-- `RX_IDLE_START` (R103). -/
def execRxIdleStart (s : State) : Host.Outcome State Fault Refusal := .next s.openFrame

/-- `RX_IDLE_IGNORE` (R104): "no state change". -/
def execRxIdleIgnore (_b : Byte) (s : State) : Host.Outcome State Fault Refusal := .next s

/-- `RX_ESCAPED_LITERAL` (R105): the escape is cleared also when the byte is dropped. -/
def execRxEscapedLiteral (b : Byte) (s : State) : Host.Outcome State Fault Refusal := .next (s.clearEscape.append b)

/-- `RX_ESCAPE` (R106): nothing is appended. -/
def execRxEscape (s : State) : Host.Outcome State Fault Refusal := .next s.armEscape

/-- `RX_END` (R107). The buffer's bytes are not cleared. -/
def execRxEnd (s : State) : Host.Outcome State Fault Refusal :=
  match s.payload with
  | some _ => .next s.closeFrame
  | none => .fault .bufferIndexOutOfRange

/-- `RX_DATA` (R108). -/
def execRxData (b : Byte) (s : State) : Host.Outcome State Fault Refusal := .next (s.append b)

end Sys2Proof.Machine
end

