-- ==== Sys2Proof/Machine/Operands.lean ====
section
/-! DEFINITION. The operand forms: the fields of a payload (spec/30_encoding.md R66, R69) and the result bytes of the two
responses (R70). All are single bytes, copied unchanged (41_command_dispatcher.md R131). -/

namespace Sys2Proof.Machine

/-- `message_type = p[0]` (R66). -/
def payloadMessageType (p : List Byte) : Option Byte := p[0]?

/-- `opcode = p[1]` (R66). -/
def payloadOpcode (p : List Byte) : Option Byte := p[1]?

/-- `args = p[2 .. len(p)-1]` (R66). -/
def payloadArgs (p : List Byte) : List Byte := p.drop 2

/-- "reply to SET: `[0x01]`" (R70). -/
def ackResult : List Byte := [ackValue]

/-- The result bytes of a colour reply, red, green, blue (R70; 90_conflicts.md C1). -/
def colorResult (r g b : Byte) : List Byte := [r, g, b]

end Sys2Proof.Machine
end

