-- ==== Sys2Proof/Machine/Dispatcher.lean ====
section
/-! DEFINITION. The meanings of the six payload classes (spec/41_command_dispatcher.md R122 to R127). -/

namespace Sys2Proof.Machine

/-- `DISPATCH_SHORT` (R122): no effect. -/
def execDispatchShort (_p : List Byte) (s : State) : Host.Outcome State Fault Refusal := .next s

/-- `DISPATCH_NOT_REQUEST` (R123): no effect. -/
def execDispatchNotRequest (_messageType _opcode : Byte) (_args : List Byte) (s : State) :
    Host.Outcome State Fault Refusal := .next s

/-- `SET_LED_COLOR` (R124): `Apply`, then the colour write, then the acknowledgement. -/
def execSetLedColor (r g b : Byte) (_extra : List Byte) (s : State) : Host.Outcome State Fault Refusal :=
  .next (((s.applyColor r g b).setColor r g b).encodeResponse ackResult)

/-- `SET_LED_COLOR_BADLEN` (R125): no effect. -/
def execSetLedColorBadlen (_args : List Byte) (s : State) : Host.Outcome State Fault Refusal := .next s

/-- `GET_LED_COLOR` (R126): the reply, from the registers as they stand. -/
def execGetLedColor (_args : List Byte) (s : State) : Host.Outcome State Fault Refusal :=
  .next (s.encodeResponse (colorResult s.colorR s.colorG s.colorB))

/-- `DISPATCH_UNKNOWN_OPCODE` (R127): no effect. -/
def execDispatchUnknownOpcode (_opcode : Byte) (_args : List Byte) (s : State) : Host.Outcome State Fault Refusal :=
  .next s

end Sys2Proof.Machine
end

