-- ==== Sys2Proof/Machine/Encoder.lean ====
section
/-! DEFINITION. The meanings of the two response frames (spec/42_frame_encoder.md R141, R142): no state is written, the
frame's bytes are emitted unescaped (R143). -/

namespace Sys2Proof.Machine

/-- `RESP_ACK` (R141). -/
def execRespAck (s : State) : Host.Outcome State Fault Refusal := .next (s.encodeResponse ackResult)

/-- `RESP_COLOR` (R142). -/
def execRespColor (r g b : Byte) (s : State) : Host.Outcome State Fault Refusal :=
  .next (s.encodeResponse (colorResult r g b))

end Sys2Proof.Machine
end

