-- ==== Sys2Proof/Machine/Dispatch.lean ====
section
/-! DEFINITION. The meaning of every instruction: one direct call per row of spec/opcode_table.json. -/

namespace Sys2Proof.Machine

def exec (i : Instr) (s : State) : Host.Outcome State Fault Refusal :=
  match i with
  | .rxIdleStart => Sys2Proof.Machine.execRxIdleStart s
  | .rxIdleIgnore b => Sys2Proof.Machine.execRxIdleIgnore b s
  | .rxEscapedLiteral b => Sys2Proof.Machine.execRxEscapedLiteral b s
  | .rxEscape => Sys2Proof.Machine.execRxEscape s
  | .rxEnd => Sys2Proof.Machine.execRxEnd s
  | .rxData b => Sys2Proof.Machine.execRxData b s
  | .dispatchShort p => Sys2Proof.Machine.execDispatchShort p s
  | .dispatchNotRequest messageType opcode args => Sys2Proof.Machine.execDispatchNotRequest messageType opcode args s
  | .setLedColor r g b extra => Sys2Proof.Machine.execSetLedColor r g b extra s
  | .setLedColorBadlen args => Sys2Proof.Machine.execSetLedColorBadlen args s
  | .getLedColor args => Sys2Proof.Machine.execGetLedColor args s
  | .dispatchUnknownOpcode opcode args => Sys2Proof.Machine.execDispatchUnknownOpcode opcode args s
  | .respAck => Sys2Proof.Machine.execRespAck s
  | .respColor r g b => Sys2Proof.Machine.execRespColor r g b s
  | .reset => Sys2Proof.Machine.execReset s

end Sys2Proof.Machine
end

