-- ==== Sys2Proof/Machine/Sequencer.lean ====
section
/-! DEFINITION. The serial protocol state sequencer (spec/43_sequencer.md): what one transfer of the host makes the block
do, composing the decoder, the dispatcher and the encoder in the order of R152; and how an instruction's word is placed
where the block takes its next one. -/

namespace Sys2Proof.Machine

/-- The input class of the byte `b` in the state `s` (30_encoding.md R60, R62). -/
def State.classify (s : State) (b : Byte) : Instr := decodeRx s.frameOpen s.escapePending b

/-- What `receiveByte` returns beside the next state: the payload, where the byte is an unescaped END
(40_frame_decoder.md R100, R102). -/
def State.returned (s : State) (i : Instr) : Option (List Byte) := if i = .rxEnd then s.payload else none

/-- `dispatch(s, p)` (41_command_dispatcher.md R120, R121). -/
def dispatchPayload (p : List Byte) (s : State) : Host.Outcome State Fault Refusal :=
  exec (decodePayload s.cfg.setLenPolicy p) s

/-- `deliver(p)` and `dispatch(s, p)`, where a payload was returned (R152). -/
def afterByte (returned : Option (List Byte)) (s : State) : Host.Outcome State Fault Refusal :=
  match returned with
  | some p => dispatchPayload p (s.deliver p)
  | none => .next s

/-- `step(s, b)` (R152): the handling of one accepted byte, with everything it causes. -/
def acceptByte (b : Byte) (s : State) : Host.Outcome State Fault Refusal :=
  match exec (s.classify b) s with
  | .next s1 => afterByte (s.returned (s.classify b)) s1
  | .fault r => .fault r
  | .refused r => .refused r

/-- A byte is accepted and reset falls inside its step (70_reset_and_hazards.md R192). -/
def acceptByteCut (b : Byte) (s : State) : Host.Outcome State Fault Refusal :=
  match acceptByte b s with
  | .next whole => exec .reset (s.cutTrace whole)
  | .fault r => .fault r
  | .refused r => .refused r

/-- One transfer of the host (R155, R156). Reset wins over a byte offered with it (60_exceptions.md R173); without
either, the block "holds its state and does nothing" (60_exceptions.md R181). -/
def takeTransfer (t : Transfer) (s : State) : Host.Outcome State Fault Refusal :=
  match t with
  | .idle => .next s
  | .byte b => acceptByte b s
  | .reset _ => exec .reset s
  | .byteCut b => acceptByteCut b s

/-- The next transfer, if the host makes one. "Offer nothing for ever" is the host's right (R162). -/
def takeNext (s : State) : Host.Outcome State Fault Refusal :=
  match s.inputs with
  | [] => .next s
  | t :: rest => takeTransfer t { s with inputs := rest }

/-! ## Placing an instruction -/

/-- Bytes at indices `i`, `i + 1`, … of the buffer. -/
def State.storeBytes (s : State) : Nat → List Byte → State
  | _, [] => s
  | i, b :: rest => (s.memWrite i b).storeBytes (i + 1) rest

/-- An open frame holding the payload `p`, with its END offered next: the next step dispatches `p`. -/
def State.placePayload (s : State) (p : List Byte) : State :=
  { s.storeBytes 0 p with
    frameOpen := true
    escapePending := false
    writeCursor := BitVec.ofNat 8 p.length
    inputs := .byte markEnd :: s.inputs }

/-- Put an encoding where the next step takes its instruction (notes/assumptions/13.md): an input byte is offered in the
decoder state its key names; a payload stands in an open frame with its END offered; the acknowledgement is that of a
SET of colour (0, 0, 0); a colour reply is that of a GET, with the colour in the registers; reset is asserted. -/
def State.place (s : State) : Encoding → State
  | .rx key =>
    { s with
      frameOpen := rxKeyFrameOpen key
      escapePending := rxKeyEscapePending key
      inputs := .byte (rxKeyByte key) :: s.inputs }
  | .req payload => s.placePayload payload
  | .resp [_, _, r, g, b, _] => (s.setColor r g b).placePayload [typeRequest, opGetColor]
  | .resp _ => s.placePayload [typeRequest, opSetColor, 0, 0, 0]
  | .ctrl rst => { s with inputs := (if rst = true then .reset none else .idle) :: s.inputs }

/-- The word placed, where it stands for an instruction. -/
def State.placeTableWord (s : State) (nbits w : Nat) : State :=
  match tableEncoding nbits w with
  | some e => s.place e
  | none => s

end Sys2Proof.Machine
end

