-- ==== Sys2Proof/Machine/Step.lean ====
section
/-! DEFINITION. One step of the machine, and the placing of an instruction's word for it. Both only call what stands in
Sys2Proof/Machine/Sequencer.lean. -/

namespace Sys2Proof.Machine

/-- One step: one transfer of the host, from its acceptance to the last event it causes (spec/43_sequencer.md R151). -/
def step (s : State) : Host.Outcome State Fault Refusal := takeNext s

/-- `s` with the instruction of the word `w` standing where `step` takes its next one. -/
def State.withFetchWord (s : State) (nbits w : Nat) : State := s.placeTableWord nbits w

end Sys2Proof.Machine
end

