-- ==== Sys2Proof/Machine/Conditions.lean ====
section
/-! DEFINITION. The silently handled conditions Q1 to Q7 (spec/60_exceptions.md R171). They are labels for proofs: "the
block never outputs them", and no step reads one. -/

namespace Sys2Proof.Machine

/-- The table of R171. -/
inductive Condition where
  /-- Q1: a byte other than START outside a frame. -/
  | ignIdle
  /-- Q2: a data or escaped byte while the buffer is full. -/
  | dropOverflow
  /-- Q3: a payload shorter than 2 bytes. -/
  | ignShort
  /-- Q4: a message type other than REQUEST. -/
  | ignType
  /-- Q5: an unknown opcode. -/
  | ignOpcode
  /-- Q6: a SET of a wrong length. -/
  | ignSetLen
  /-- Q7: a response without a sink. -/
  | sinkAbsent
  deriving DecidableEq, Repr

/-- Is this one of the dispatcher's conditions, Q3 to Q6? -/
def Condition.ofDispatcher : Condition → Bool
  | .ignIdle => false
  | .dropOverflow => false
  | .ignShort => true
  | .ignType => true
  | .ignOpcode => true
  | .ignSetLen => true
  | .sinkAbsent => false

/-- Q2's cause: `append` would drop (40_frame_decoder.md R101). -/
def State.overflow (s : State) : List Condition :=
  if s.writeCursor < s.cfg.headroomIndex then [] else [.dropOverflow]

/-- Q7's cause (41_command_dispatcher.md R129). -/
def State.noSink (s : State) : List Condition := if s.cfg.sinkPresent = true then [] else [.sinkAbsent]

/-- The conditions that executing an instruction meets. -/
def conditionsOf (s : State) : Instr → List Condition
  | .rxIdleStart => []
  | .rxIdleIgnore _ => [.ignIdle]
  | .rxEscapedLiteral _ => s.overflow
  | .rxEscape => []
  | .rxEnd => []
  | .rxData _ => s.overflow
  | .dispatchShort _ => [.ignShort]
  | .dispatchNotRequest _ _ _ => [.ignType]
  | .setLedColor _ _ _ _ => s.noSink
  | .setLedColorBadlen _ => [.ignSetLen]
  | .getLedColor _ => s.noSink
  | .dispatchUnknownOpcode _ _ => [.ignOpcode]
  | .respAck => s.noSink
  | .respColor _ _ _ => s.noSink
  | .reset => []

/-- The conditions that the step of the byte `b` meets: those of the byte's class, then those of the payload it
delivers, if any. -/
def byteConditions (s : State) (b : Byte) : List Condition :=
  conditionsOf s (s.classify b) ++
    match s.returned (s.classify b) with
    | some p => conditionsOf s (decodePayload s.cfg.setLenPolicy p)
    | none => []

end Sys2Proof.Machine
end

