-- ==== Sys2Proof/Machine/Endpoints.lean ====
section
/-! DEFINITION. Several serial endpoints (spec/60_exceptions.md R179): one instance each, with no shared state and no
interaction but that all of them are reset together (92_eei_decisions.md D19). -/

namespace Sys2Proof.Machine

/-- The instances, one per endpoint. -/
abbrev Endpoints := List State

/-- The instances right after reset: "start together at reset". Each has parameters of its own (00_scope.md R10) and, for
its free values, a number of its own (DESIGN CHOICE, safe: notes/assumptions/16.md). -/
def resetEndpoints (cfgs : List Config) : Endpoints :=
  cfgs.mapIdx fun k cfg => { State.reset with cfg := cfg, endpoint := k }

/-- Does the host assert `rst` in this instance's next transfer? -/
def State.resetNext (s : State) : Bool :=
  match s.inputs with
  | .reset _ :: _ => true
  | .byteCut _ :: _ => true
  | .byte _ :: _ => false
  | .idle :: _ => false
  | [] => false

/-- What the common `rst` does to one instance. Where the instance's next transfer says how the reset meets it (beside an
offered byte, or inside the step of one), that transfer is taken; else the instance is reset between two steps, and what
its transport offers stays offered (60_exceptions.md R173). -/
def takeJointReset (s : State) : Host.Outcome State Fault Refusal :=
  if s.resetNext = true then step s else exec .reset s

/-- `rst` is asserted: "all instances are reset together" (92_eei_decisions.md D19). -/
def resetTogether : Endpoints → Host.Outcome Endpoints Fault Refusal
  | [] => .next []
  | s :: es =>
    match takeJointReset s with
    | .next t =>
      match resetTogether es with
      | .next ts => .next (t :: ts)
      | .fault r => .fault r
      | .refused r => .refused r
    | .fault r => .fault r
    | .refused r => .refused r

/-- One step of endpoint `k`: where its next transfer asserts `rst`, the reset of all; else a step of its own. An endpoint
that does not exist takes none. -/
def stepEndpoint (es : Endpoints) (k : Nat) : Host.Outcome Endpoints Fault Refusal :=
  match es[k]? with
  | none => .next es
  | some s =>
    if s.resetNext = true then resetTogether es
    else
      match step s with
      | .next t => .next (es.set k t)
      | .fault r => .fault r
      | .refused r => .refused r

end Sys2Proof.Machine
end

