-- ==== Sys2Proof/Machine/Ports.lean ====
section
/-! DEFINITION. The output ports (spec/43_sequencer.md R155, R156): what `rx_ready`, `apply_*` and `tx_*` show of a
step's events. The model is of transactions, without a clock (70_reset_and_hazards.md R200), so a port view is the list
of transfers in order; when `tx_valid` or `apply_valid` is low its data lines say nothing, hence the options. -/

namespace Sys2Proof.Machine

/-- The output ports in one transfer. -/
structure PortOut where
  /-- `rx_ready`. -/
  rxReady : Bool
  /-- `apply_r`, `apply_g`, `apply_b` where `apply_valid` is high. -/
  apply : Option (Byte × Byte × Byte)
  /-- `tx_data` where `tx_valid` is high. -/
  tx : Option Byte
  deriving DecidableEq, Repr

/-- `apply_valid`. -/
def PortOut.applyValid (p : PortOut) : Bool := p.apply.isSome

/-- `tx_valid`. -/
def PortOut.txValid (p : PortOut) : Bool := p.tx.isSome

/-- Between two steps: the block can accept a byte. -/
def portsReady : PortOut := ⟨true, none, none⟩

/-- The event a transfer presents, if any. -/
def PortOut.event (p : PortOut) : Option Event :=
  match p.apply, p.tx with
  | some (r, g, b), none => some (.apply r g b)
  | none, some b => some (.emit b)
  | _, _ => none

/-- A transfer with `rst` high: reset produces no event (70_reset_and_hazards.md R190), and the level of `rx_ready` is
`ready`. -/
def portsInReset (ready : Bool) : PortOut := ⟨ready, none, none⟩

/-- The transfer that presents an event, with `rx_ready` low; `Frame` has no port (R153). -/
def Event.present : Event → Option PortOut
  | .frame _ => none
  | .apply r g b => some ⟨false, some (r, g, b), none⟩
  | .emit b => some ⟨false, none, some b⟩

/-- The events of the step from `s` to `t`. -/
def stepEvents (s t : State) : List Event := t.trace.drop s.trace.length

/-- The ports while the host's transfer is handled: after an acceptance each event once in trace order (R156), then, in a
transfer that asserts `rst`, the one with `rst` high, where `rx_ready` has the level `resetReady`. -/
def portsOfTransfer (resetReady : Bool) (events : List Event) : Option Transfer → List PortOut
  | none => [portsReady]
  | some .idle => [portsReady]
  | some (.byte _) => portsReady :: events.filterMap Event.present
  | some (.reset _) => [portsInReset resetReady]
  | some (.byteCut _) => portsReady :: (events.filterMap Event.present ++ [portsInReset resetReady])

/-- The ports from the state `s` through its step to the state `t`, where the next byte can be taken. The spec does not
give the level of `rx_ready` while `rst` is high: it is a free value (DESIGN CHOICE, safe: notes/assumptions/18.md). -/
def portsOfStep (s t : State) : List PortOut :=
  portsOfTransfer (Config.freeReady s.endpoint s.draws) (stepEvents s t) s.inputs.head? ++ [portsReady]

end Sys2Proof.Machine
end

