-- ==== Sys2Proof/Safety.lean ====
section
/-! DEFINITION. The terms claims use: the states of the block (spec/10_state.md R30, R32; 20_memory.md R41), the decoder
at rest, runs over accepted bytes (43_sequencer.md R157), states that differ only in what no event can show (R32, R159),
and the host's duty to hold an offered byte (R162; 70_reset_and_hazards.md R194). -/

namespace Sys2Proof.Machine

/-- The invariant of every reachable state. -/
structure State.Inv (s : State) : Prop where
  /-- R30 (a): "`write_cursor` never exceeds capacity − 1". -/
  cursor_le : s.writeCursor ≤ s.cfg.headroomIndex
  /-- R30 (b). -/
  escape_open : s.escapePending = true → s.frameOpen = true
  /-- R30 (c). -/
  closed_zero : s.frameOpen = false → s.writeCursor = 0
  /-- The memory is in its canonical form. -/
  buffer_wf : Memory.wf s.frameBuffer
  /-- R41: only indices 0 to `CAPACITY - 2` are ever written. -/
  buffer_below : ∀ c ∈ s.frameBuffer, c.1 < s.cfg.maxPayload
  /-- R32: every byte below the cursor was written (in the current frame). -/
  written : ∀ i < s.writeCursor.toNat, (Memory.read s.frameBuffer i).isSome

/-- The decoder in `IDLE` with nothing received: what the END of a frame leaves. -/
def State.AtRest (s : State) : Prop := s.frameOpen = false ∧ s.escapePending = false ∧ s.writeCursor = 0

/-- `s` with the transport about to offer `bytes`, one a transfer. -/
def State.fed (s : State) (bytes : List Byte) : State := { s with inputs := bytes.map .byte ++ s.inputs }

/-- The run of the accepted bytes `bytes` from `s` (43_sequencer.md R157). -/
def runBytes (s : State) (bytes : List Byte) : Host.Outcome State Fault Refusal :=
  Host.Core.run Sys2Proof.core bytes.length (s.fed bytes)

/-- The step of the byte `b` delivers the payload `p`: `b` is an unescaped END of an open frame, and `p` is what the
buffer holds below the cursor (40_frame_decoder.md R107). -/
def State.Delivers (s : State) (b : Byte) (p : List Byte) : Prop :=
  s.frameOpen = true ∧ s.escapePending = false ∧ b = markEnd ∧ s.payload = some p

/-- Two states that differ at most in the buffer bytes at indices from the cursor on (10_state.md R32) and in the
model's own two indices of free values. -/
structure State.Alike (s t : State) : Prop where
  cfg : t.cfg = s.cfg
  frameOpen : t.frameOpen = s.frameOpen
  escapePending : t.escapePending = s.escapePending
  writeCursor : t.writeCursor = s.writeCursor
  colorR : t.colorR = s.colorR
  colorG : t.colorG = s.colorG
  colorB : t.colorB = s.colorB
  inputs : t.inputs = s.inputs
  trace : t.trace = s.trace
  below : ∀ i < s.writeCursor.toNat, Memory.read t.frameBuffer i = Memory.read s.frameBuffer i

/-- The byte a transfer offers. -/
def Transfer.offered : Transfer → Option Byte
  | .idle => none
  | .byte b => some b
  | .reset offered => offered
  | .byteCut b => some b

/-- The host's duty: a byte that a reset kept from being accepted is offered again in the next transfer, until it is
accepted (43_sequencer.md R162: "hold an offered byte until it is accepted"). -/
def hostHolds : List Transfer → Bool
  | .reset (some b) :: rest => rest.head?.bind Transfer.offered == some b && hostHolds rest
  | .reset none :: rest => hostHolds rest
  | .idle :: rest => hostHolds rest
  | .byte _ :: rest => hostHolds rest
  | .byteCut _ :: rest => hostHolds rest
  | [] => true

end Sys2Proof.Machine
end

