-- ==== Sys2Proof/Certificates/Slice0/Obligations.lean ====
section
/-! DEFINITION. The statements for the provers, from the numbered rules of spec/. Nothing is proved here. -/

open Sys2Proof Sys2Proof.Machine

/-! ## Encodings -/

/-- Words written out from spec/30_encoding.md R62, R68, R70 and the vectors of 95_test_vectors.md decode to the
instructions they stand for, whatever the configuration (payloads: where they fit). -/
def Obligations.EncodingsFromTheSpecDecode : Prop :=
  ∀ cfg : Config, 5 ≤ cfg.maxPayload →
    decode cfg (.rx 0b0011111111#10) = .instr .rxIdleStart ∧
    decode cfg (.rx 0b0011111101#10) = .instr (.rxIdleIgnore 0xFD) ∧
    decode cfg (.rx 0b1111111110#10) = .instr (.rxEscapedLiteral 0xFE) ∧
    decode cfg (.rx 0b1011111101#10) = .instr .rxEscape ∧
    decode cfg (.rx 0b1011111110#10) = .instr .rxEnd ∧
    decode cfg (.rx 0b1011111111#10) = .instr (.rxData 0xFF) ∧
    decode cfg (.req []) = .instr (.dispatchShort []) ∧
    decode cfg (.req [0x01, 0x01]) = .instr (.dispatchNotRequest 0x01 0x01 []) ∧
    decode cfg (.req [0x00, 0x00, 0x0A, 0x14, 0x1E]) = .instr (.setLedColor 0x0A 0x14 0x1E []) ∧
    decode cfg (.req [0x00, 0x00, 0x0A, 0x14]) = .instr (.setLedColorBadlen [0x0A, 0x14]) ∧
    decode cfg (.req [0x00, 0x01]) = .instr (.getLedColor []) ∧
    decode cfg (.req [0x00, 0x07]) = .instr (.dispatchUnknownOpcode 0x07 []) ∧
    decode cfg (.resp [0xFF, 0x01, 0x01, 0xFE]) = .instr .respAck ∧
    decode cfg (.resp [0xFF, 0x01, 0x0A, 0x14, 0x1E, 0xFE]) = .instr (.respColor 0x0A 0x14 0x1E) ∧
    decode cfg (.ctrl true) = .instr .reset

/-- Decoding the encoding of a well-formed instruction gives it back: all 15 rows, every operand value, every
configuration. -/
def Obligations.DecodeOfEncodeIsTheInstruction : Prop :=
  ∀ (cfg : Config) (i : Instr), i.wellFormed cfg = true → decode cfg (encode i) = .instr i

/-- The other direction: what decodes is well-formed, and its encoding is the one decoded, but for the bit that no row
looks at (`escape_pending` while no frame is open, R62). -/
def Obligations.DecodedInstructionsEncodeBack : Prop :=
  ∀ (cfg : Config) (e : Encoding) (i : Instr), decode cfg e = .instr i →
    i.wellFormed cfg = true ∧ encode i = canonical e

/-- R62: the decode table of the input bytes; every (state, byte) pair falls in exactly the row whose condition it
meets. -/
def Obligations.InputByteClassesFollowTheDecodeTable : Prop :=
  ∀ (fo ep : Bool) (b : Byte),
    (fo = false ∧ b = 0xFF → decodeRx fo ep b = .rxIdleStart) ∧
    (fo = false ∧ b.toNat ≤ 0xFE → decodeRx fo ep b = .rxIdleIgnore b) ∧
    (fo = true ∧ ep = true → decodeRx fo ep b = .rxEscapedLiteral b) ∧
    (fo = true ∧ ep = false ∧ b = 0xFD → decodeRx fo ep b = .rxEscape) ∧
    (fo = true ∧ ep = false ∧ b = 0xFE → decodeRx fo ep b = .rxEnd) ∧
    (fo = true ∧ ep = false ∧ (b.toNat ≤ 0xFC ∨ b = 0xFF) → decodeRx fo ep b = .rxData b) ∧
    (fo = false ∧ (b = 0xFF ∨ b.toNat ≤ 0xFE) ∨ fo = true ∧ ep = true ∨
      fo = true ∧ ep = false ∧ (b = 0xFD ∨ b = 0xFE ∨ b.toNat ≤ 0xFC ∨ b = 0xFF))

/-- R76: the decoded class of an input byte is that of the first row of spec/opcode_table.json, in the order of
`priority`, whose mask and match accept the 10-bit key. -/
def Obligations.FirstMatchingRowIsTheDecodedClass : Prop :=
  ∀ key : BitVec 10,
    firstRxRow key = some (decodeRx (rxKeyFrameOpen key) (rxKeyEscapePending key) (rxKeyByte key))

/-- R121, R71: which row a payload falls in, by its length, message type, opcode and SET length; it always falls in
one. -/
def Obligations.PayloadClassesFollowTheDispatchOrder : Prop :=
  ∀ (policy : SetLenPolicy) (p : List Byte),
    ((decodePayload policy p).mnemonic = "DISPATCH_SHORT" ↔ p.length < 2) ∧
    ((decodePayload policy p).mnemonic = "DISPATCH_NOT_REQUEST" ↔
      2 ≤ p.length ∧ payloadMessageType p ≠ some 0x00) ∧
    ((decodePayload policy p).mnemonic = "SET_LED_COLOR" ↔
      payloadMessageType p = some 0x00 ∧ payloadOpcode p = some 0x00 ∧
        (p.length = 5 ∨ 5 < p.length ∧ policy = .atLeast)) ∧
    ((decodePayload policy p).mnemonic = "SET_LED_COLOR_BADLEN" ↔
      payloadMessageType p = some 0x00 ∧ payloadOpcode p = some 0x00 ∧
        (p.length < 5 ∨ 5 < p.length ∧ policy = .exact)) ∧
    ((decodePayload policy p).mnemonic = "GET_LED_COLOR" ↔
      payloadMessageType p = some 0x00 ∧ payloadOpcode p = some 0x01) ∧
    ((decodePayload policy p).mnemonic = "DISPATCH_UNKNOWN_OPCODE" ↔
      payloadMessageType p = some 0x00 ∧ ∃ op : Byte, payloadOpcode p = some op ∧ 0x02 ≤ op.toNat)

/-- R65: a compliant frame costs 2 wire bytes, one for each payload byte, and one more for each that is escaped. -/
def Obligations.WireLengthOfAFrame : Prop :=
  ∀ p : List Byte, (frameBytes p).length = 2 + p.length + (p.filter isMarker).length

/-- R28: the four positions name the four flag pairs, and no state that meets the invariant R30 is in the unreachable
one. -/
def Obligations.PositionsNameTheFlagPairs : Prop :=
  ∀ s : State,
    (s.position = .idle ↔ s.frameOpen = false ∧ s.escapePending = false) ∧
    (s.position = .inFrame ↔ s.frameOpen = true ∧ s.escapePending = false) ∧
    (s.position = .escaped ↔ s.frameOpen = true ∧ s.escapePending = true) ∧
    (s.position = .unreachable ↔ s.frameOpen = false ∧ s.escapePending = true) ∧
    (s.Inv → s.position ≠ .unreachable)

/-! ## The input-byte classes -/

/-- R103: a START while no frame is open opens one; nothing else changes. -/
def Obligations.IdleStartOpensAFrame : Prop :=
  ∀ s : State,
    (s.frameOpen = false → s.classify 0xFF = .rxIdleStart) ∧
    exec .rxIdleStart s = .next { s with frameOpen := true }

/-- R104: any other byte while no frame is open changes nothing. -/
def Obligations.IdleBytesChangeNothing : Prop :=
  ∀ (s : State) (b : Byte),
    (s.frameOpen = false → b.toNat ≤ 0xFE → s.classify b = .rxIdleIgnore b) ∧
    exec (.rxIdleIgnore b) s = .next s

/-- R106: an unescaped ESCAPE in an open frame arms the escape and appends nothing, also when the buffer is full. -/
def Obligations.EscapeIsArmed : Prop :=
  ∀ s : State,
    (s.frameOpen = true → s.escapePending = false → s.classify 0xFD = .rxEscape) ∧
    exec .rxEscape s = .next { s with escapePending := true }

/-- R101, R108: an ordinary byte of an open frame is stored at the cursor, which goes up by 1, while the cursor is below
`CAPACITY - 1`; else it is dropped and the state stays as it is. Every other byte of the buffer reads as before, and no
other field changes. -/
def Obligations.DataByteIsStoredOrDropped : Prop :=
  ∀ (s : State) (b : Byte),
    (s.frameOpen = true → s.escapePending = false → b.toNat ≤ 0xFC ∨ b = 0xFF → s.classify b = .rxData b) ∧
    ∃ t, exec (.rxData b) s = .next t ∧
      t = { s with writeCursor := t.writeCursor, frameBuffer := t.frameBuffer } ∧
      (s.writeCursor.toNat < s.cfg.capacity - 1 →
        t.writeCursor.toNat = s.writeCursor.toNat + 1 ∧
        t.readBuffer s.writeCursor.toNat = b ∧
        ∀ a, a ≠ s.writeCursor.toNat → t.readBuffer a = s.readBuffer a) ∧
      (s.cfg.capacity - 1 ≤ s.writeCursor.toNat → t = s)

/-- R101, R105: the byte after ESCAPE is stored as it is, whatever its value, or dropped when the buffer is full; the
escape is cleared in both cases. -/
def Obligations.EscapedByteIsStoredVerbatimOrDropped : Prop :=
  ∀ (s : State) (b : Byte),
    (s.frameOpen = true → s.escapePending = true → s.classify b = .rxEscapedLiteral b) ∧
    ∃ t, exec (.rxEscapedLiteral b) s = .next t ∧
      t = { s with escapePending := false, writeCursor := t.writeCursor, frameBuffer := t.frameBuffer } ∧
      (s.writeCursor.toNat < s.cfg.capacity - 1 →
        t.writeCursor.toNat = s.writeCursor.toNat + 1 ∧
        t.readBuffer s.writeCursor.toNat = b ∧
        ∀ a, a ≠ s.writeCursor.toNat → t.readBuffer a = s.readBuffer a) ∧
      (s.cfg.capacity - 1 ≤ s.writeCursor.toNat → t = { s with escapePending := false })

/-- R107, R43: an unescaped END closes the frame and sets the cursor to 0, and nothing else; what it returns is the
`write_cursor` bytes at indices 0 on, in index order. The premise is the cursor's range (10_state.md R22). -/
def Obligations.EndClosesTheFrameAndReturnsThePayload : Prop :=
  ∀ s : State, s.writeCursor.toNat ≤ s.cfg.capacity - 1 →
    (s.frameOpen = true → s.escapePending = false → s.classify 0xFE = .rxEnd) ∧
    exec .rxEnd s = .next { s with writeCursor := 0, frameOpen := false } ∧
    ∃ p, s.returned .rxEnd = some p ∧ p.length = s.writeCursor.toNat ∧
      ∀ i < s.writeCursor.toNat, p[i]? = some (s.readBuffer i)

/-- The model's one fault (notes/assumptions/9.md): with a cursor above `CAPACITY - 1`, which 10_state.md R22 gives to no
state of the block, `MemRead(0, write_cursor)` is not defined (00_scope.md R14) and RX_END stops. -/
def Obligations.EndOutsideTheBufferStops : Prop :=
  ∀ s : State, s.cfg.capacity - 1 < s.writeCursor.toNat → exec .rxEnd s = .fault .bufferIndexOutOfRange

/-- R102: in the open frame the flags after a byte are exactly these, and one byte makes one transition (R28), from
every state the invariant R30 allows. -/
def Obligations.FlagsAfterAByte : Prop :=
  ∀ (s t : State) (b : Byte) (rest : List Transfer), s.Inv → s.inputs = .byte b :: rest → step s = .next t →
    (t.frameOpen = true ↔
      s.frameOpen = false ∧ b = 0xFF ∨ s.frameOpen = true ∧ (s.escapePending = true ∨ b ≠ 0xFE)) ∧
    (t.escapePending = true ↔ s.frameOpen = true ∧ s.escapePending = false ∧ b = 0xFD)

/-- R109: from an open frame without a pending escape, ESCAPE END closes nothing and delivers nothing: 0xFE is stored at
the cursor where there is room, else dropped as any data byte is (R101), and the frame stays open. -/
def Obligations.EscapedEndIsData : Prop :=
  ∀ s : State, s.frameOpen = true → s.escapePending = false →
    ∃ t, runBytes s [0xFD, 0xFE] = .next t ∧
      t.frameOpen = true ∧ t.escapePending = false ∧ t.trace = s.trace ∧
      (s.writeCursor.toNat < s.cfg.capacity - 1 →
        t.writeCursor.toNat = s.writeCursor.toNat + 1 ∧ t.readBuffer s.writeCursor.toNat = 0xFE) ∧
      (s.cfg.capacity - 1 ≤ s.writeCursor.toNat → t = s)

/-- R110: of two ESCAPE bytes the first arms, the second is stored as 0xFD (where there is room, else dropped, R101); a
third arms a new escape. -/
def Obligations.SecondEscapeIsDataAndThirdArms : Prop :=
  ∀ s : State, s.frameOpen = true → s.escapePending = false →
    ∃ t, runBytes s [0xFD, 0xFD] = .next t ∧
      runBytes s [0xFD, 0xFD, 0xFD] = .next { t with escapePending := true } ∧
      t.frameOpen = true ∧ t.escapePending = false ∧ t.trace = s.trace ∧
      (s.writeCursor.toNat < s.cfg.capacity - 1 →
        t.writeCursor.toNat = s.writeCursor.toNat + 1 ∧ t.readBuffer s.writeCursor.toNat = 0xFD) ∧
      (s.cfg.capacity - 1 ≤ s.writeCursor.toNat → t = s)

/-- R112: the state `(0, 1)` is none of those the invariant allows (so no run from reset meets it:
EveryStepKeepsTheStateInvariant, StateInvariantHoldsAtReset); it ignores every byte but 0xFF and keeps `escape_pending`;
0xFF leads to `(1, 1)`, and the next byte is stored literally. -/
def Obligations.UnreachableStateFollowsTheTestOrder : Prop :=
  ∀ (s : State) (b : Byte) (rest : List Transfer), s.frameOpen = false → s.escapePending = true →
    s.inputs = .byte b :: rest →
    ¬ s.Inv ∧
    (b ≠ 0xFF → step s = .next { s with inputs := rest }) ∧
    (b = 0xFF → step s = .next { s with frameOpen := true, inputs := rest }) ∧
    ∀ c : Byte, ({ s with frameOpen := true } : State).classify c = .rxEscapedLiteral c

/-- R114: a START in an open frame is ordinary data (R108): it neither discards the partial frame nor moves the cursor
back; where the buffer is full it is dropped. -/
def Obligations.StartInAnOpenFrameIsData : Prop :=
  ∀ (s : State) (rest : List Transfer), s.frameOpen = true → s.escapePending = false →
    s.inputs = .byte 0xFF :: rest →
    ∃ t, step s = .next t ∧ t.frameOpen = true ∧ t.escapePending = false ∧ t.trace = s.trace ∧
      (s.writeCursor.toNat < s.cfg.capacity - 1 →
        t.writeCursor.toNat = s.writeCursor.toNat + 1 ∧ t.readBuffer s.writeCursor.toNat = 0xFF ∧
        ∀ a, a ≠ s.writeCursor.toNat → t.readBuffer a = s.readBuffer a) ∧
      (s.cfg.capacity - 1 ≤ s.writeCursor.toNat → t = { s with inputs := rest })

/-! ## The dispatcher and the encoder -/

/-- R122, R123, R125, R127: the four ignore classes have no effect, as instructions and as payloads. -/
def Obligations.IgnoredPayloadsHaveNoEffect : Prop :=
  ∀ (s : State) (messageType opcode : Byte) (args p : List Byte),
    exec (.dispatchShort p) s = .next s ∧
    exec (.dispatchNotRequest messageType opcode args) s = .next s ∧
    exec (.setLedColorBadlen args) s = .next s ∧
    exec (.dispatchUnknownOpcode opcode args) s = .next s ∧
    (p.length < 2 → dispatchPayload p s = .next s) ∧
    (messageType ≠ 0x00 → dispatchPayload (messageType :: opcode :: args) s = .next s) ∧
    (args.length < 3 ∨ 3 < args.length ∧ s.cfg.setLenPolicy = .exact →
      dispatchPayload (0x00 :: 0x00 :: args) s = .next s) ∧
    (0x02 ≤ opcode.toNat → dispatchPayload (0x00 :: opcode :: args) s = .next s)

/-- R124, R129: SET applies the colour, remembers it, and acknowledges where there is a sink, in this order (the spec's
decision D10), and changes nothing else; it runs for 5 payload bytes, and for more under `AT_LEAST`. -/
def Obligations.SetAppliesStoresAndAcknowledges : Prop :=
  ∀ (s : State) (r g b : Byte) (extra : List Byte),
    exec (.setLedColor r g b extra) s = .next { s with
      colorR := r
      colorG := g
      colorB := b
      trace := s.trace ++ .apply r g b ::
        (if s.cfg.sinkPresent = true then [.emit 0xFF, .emit 0x01, .emit 0x01, .emit 0xFE] else []) } ∧
    (extra = [] ∨ s.cfg.setLenPolicy = .atLeast →
      dispatchPayload (0x00 :: 0x00 :: r :: g :: b :: extra) s = exec (.setLedColor r g b extra) s)

/-- R126, R129: GET replies the colour registers, unescaped, where there is a sink, and changes nothing else; bytes after
index 1 do not matter (the spec's decision D7). -/
def Obligations.GetRepliesTheColour : Prop :=
  ∀ (s : State) (args : List Byte),
    exec (.getLedColor args) s = .next { s with
      trace := s.trace ++
        (if s.cfg.sinkPresent = true then
          [.emit 0xFF, .emit 0x01, .emit s.colorR, .emit s.colorG, .emit s.colorB, .emit 0xFE] else []) } ∧
    dispatchPayload (0x00 :: 0x01 :: args) s = exec (.getLedColor args) s

/-- R141: the acknowledgement frame. -/
def Obligations.AcknowledgementFrame : Prop :=
  ∀ s : State,
    exec .respAck s = .next { s with
      trace := s.trace ++
        (if s.cfg.sinkPresent = true then [.emit 0xFF, .emit 0x01, .emit 0x01, .emit 0xFE] else []) }

/-- R142, R143: the colour reply, each result byte as it is, with no ESCAPE put in. -/
def Obligations.ColourReplyFrameIsNotEscaped : Prop :=
  ∀ (s : State) (r g b : Byte),
    exec (.respColor r g b) s = .next { s with
      trace := s.trace ++
        (if s.cfg.sinkPresent = true then [.emit 0xFF, .emit 0x01, .emit r, .emit g, .emit b, .emit 0xFE] else []) }

/-! ## Reset -/

/-- R190: reset sets both flags, the cursor and the colour to 0 (the colour by the spec's decision D11), from every state,
and produces no event. Nothing is said of the buffer, which is unspecified. -/
def Obligations.ResetSetsEveryFieldAndProducesNoEvent : Prop :=
  ∀ s : State, ∃ t, exec .reset s = .next t ∧
    t.frameOpen = false ∧ t.escapePending = false ∧ t.writeCursor = 0 ∧
    t.colorR = 0 ∧ t.colorG = 0 ∧ t.colorB = 0 ∧
    t.trace = s.trace

/-- R31, R10: the state after reset on this hardware. Of the buffer, which is unspecified, and of `SET_LEN_POLICY`, which
is OPEN, nothing is said. That the colour is cleared is the spec's decision D11. -/
def Obligations.ResetStateValues : Prop :=
  State.reset.frameOpen = false ∧ State.reset.escapePending = false ∧ State.reset.writeCursor = 0 ∧
  State.reset.colorR = 0 ∧ State.reset.colorG = 0 ∧ State.reset.colorB = 0 ∧
  State.reset.cfg.capacity = 32 ∧ State.reset.cfg.sinkPresent = true

/-- R192: a reset inside the step of a byte leaves a prefix of that step's events and the state of R190. The length of
the prefix is a free value (notes/assumptions/7.md). -/
def Obligations.ResetInsideAStepLeavesAPrefix : Prop :=
  ∀ (s whole : State) (b : Byte) (rest : List Transfer), s.inputs = .byteCut b :: rest →
    step { s with inputs := .byte b :: rest } = .next whole →
    ∃ t k, step s = .next t ∧
      t.trace = s.trace ++ (stepEvents s whole).take k ∧
      whole.trace = s.trace ++ stepEvents s whole ∧
      t.frameOpen = false ∧ t.escapePending = false ∧ t.writeCursor = 0 ∧
      t.colorR = 0 ∧ t.colorG = 0 ∧ t.colorB = 0 ∧ t.cfg = s.cfg ∧ t.inputs = rest

/-- R173: reset wins over a byte offered in the same transfer; the byte is not accepted, and the host, which holds it,
offers it to the state after reset. -/
def Obligations.ResetWinsOverAnOfferedByte : Prop :=
  ∀ (s : State) (b : Byte) (rest : List Transfer), s.inputs = .reset (some b) :: rest →
    step s = step { s with inputs := .reset none :: rest } ∧
    step s = exec .reset { s with inputs := rest } ∧
    (hostHolds s.inputs = true → ∃ t u, rest.head? = some u ∧ u.offered = some b ∧
      step s = .next t ∧ t.AtRest ∧ t.inputs = rest)

/-! ## The step -/

/-- R60, R152: the byte the host offers next, decoded against the decoder's state, is the instruction that `step` runs,
on the state with the transfer taken; and a reset transfer runs RESET. (For an END, what follows it:
StepOnEndDeliversThenDispatches.) -/
def Obligations.StepRunsTheDecodedInstruction : Prop :=
  ∀ (s : State) (rest : List Transfer),
    (∀ (b : Byte) (i : Instr), s.inputs = .byte b :: rest →
      decode s.cfg (.rx (rxKey s.frameOpen s.escapePending b)) = .instr i → i ≠ .rxEnd →
      step s = exec i { s with inputs := rest }) ∧
    (∀ offered, s.inputs = .reset offered :: rest → step s = exec .reset { s with inputs := rest })

/-- R152: the END that closes a frame runs RX_END, then delivers the payload as `Frame(p)`, then runs the payload's own
instruction, all in one step. -/
def Obligations.StepOnEndDeliversThenDispatches : Prop :=
  ∀ (s : State) (rest : List Transfer), s.frameOpen = true → s.escapePending = false →
    s.inputs = .byte 0xFE :: rest → s.writeCursor.toNat ≤ s.cfg.capacity - 1 →
    ∃ p j, s.payload = some p ∧ decode s.cfg (.req p) = .instr j ∧ j.wellFormed s.cfg = true ∧
      step s = exec j { s with
        inputs := rest
        frameOpen := false
        writeCursor := 0
        trace := s.trace ++ [.frame p] }

/-- R162, R181: where the host offers nothing, the block holds its state (notes/assumptions/5.md for the empty
list). -/
def Obligations.NothingHappensWithoutAByte : Prop :=
  ∀ (s : State) (rest : List Transfer),
    (s.inputs = [] → step s = .next s) ∧
    (s.inputs = .idle :: rest → step s = .next { s with inputs := rest })

/-- R154: the events of the step of one byte: none, or one `Frame` and then nothing, `Apply` and the acknowledgement, or
the six bytes of a colour reply; without a sink no `Emit`. -/
def Obligations.EventsOfAByteStep : Prop :=
  ∀ (s t : State) (b : Byte) (rest : List Transfer), s.inputs = .byte b :: rest → step s = .next t →
    t.trace = s.trace ∨
    ∃ p tail, t.trace = s.trace ++ .frame p :: tail ∧
      (tail = [] ∨
        (∃ r g c, tail = .apply r g c ::
          (if s.cfg.sinkPresent = true then [.emit 0xFF, .emit 0x01, .emit 0x01, .emit 0xFE] else [])) ∨
        tail = if s.cfg.sinkPresent = true then
          [.emit 0xFF, .emit 0x01, .emit s.colorR, .emit s.colorG, .emit s.colorB, .emit 0xFE] else [])

/-- R12, R154: every step, a reset inside one too, appends at most 7 events, at most 1 `Apply` and at most 6 `Emit`, and
takes none back. -/
def Obligations.AtMostSevenEventsAStep : Prop :=
  ∀ s t : State, step s = .next t →
    ∃ es, t.trace = s.trace ++ es ∧ es.length ≤ 7 ∧
      (es.filter fun e => match e with | .apply _ _ _ => true | .frame _ => false | .emit _ => false).length ≤ 1 ∧
      (es.filter fun e => match e with | .apply _ _ _ => false | .frame _ => false | .emit _ => true).length ≤ 6

/-- R12, R73: no payload delivered by any step is longer than `CAPACITY - 1`. -/
def Obligations.PayloadsFitTheBuffer : Prop :=
  ∀ (s t : State) (p : List Byte), step s = .next t → .frame p ∈ stepEvents s t → p.length ≤ s.cfg.capacity - 1

/-- R129, R154: without a sink no step emits a byte. -/
def Obligations.WithoutASinkNothingIsEmitted : Prop :=
  ∀ (s t : State) (b : Byte), s.cfg.sinkPresent = false → step s = .next t → .emit b ∉ stepEvents s t

/-- R155, R156: what the ports show of a step. Where no reset is its transfer: `rx_ready` high at the acceptance, then low
in one transfer for each `Apply` and `Emit` of the step, in trace order over both channels, each presented once and with
its data, then high again. A reset that falls inside the step, or is the step's transfer, has one transfer of its own,
without an event; the level of `rx_ready` there is open in the spec and free in the model (notes/assumptions/18.md).
Without a sink `tx_valid` never rises. -/
def Obligations.PortsPresentEachEventOnceInOrder : Prop :=
  ∀ s t : State, step s = .next t →
    ((∀ offered, s.inputs.head? ≠ some (.reset offered)) →
      ∃ shown cut : List PortOut, portsOfStep s t = portsReady :: (shown ++ (cut ++ [portsReady])) ∧
        (∀ p ∈ shown, p.rxReady = false ∧ (p.applyValid = true ↔ p.txValid = false)) ∧
        shown.map PortOut.event = ((stepEvents s t).filter fun e =>
          match e with | .frame _ => false | .apply _ _ _ => true | .emit _ => true).map some ∧
        shown.filterMap PortOut.apply = (stepEvents s t).filterMap (fun e =>
          match e with | .apply r g b => some (r, g, b) | .frame _ => none | .emit _ => none) ∧
        shown.filterMap PortOut.tx = (stepEvents s t).filterMap (fun e =>
          match e with | .emit b => some b | .frame _ => none | .apply _ _ _ => none) ∧
        ((∀ b, s.inputs.head? ≠ some (.byteCut b)) → cut = []) ∧
        ((∃ b, s.inputs.head? = some (.byteCut b)) → ∃ ready, cut = [portsInReset ready])) ∧
    ((∃ offered, s.inputs.head? = some (.reset offered)) →
      stepEvents s t = [] ∧ ∃ ready, portsOfStep s t = [portsInReset ready, portsReady]) ∧
    (s.cfg.sinkPresent = false → ∀ p ∈ portsOfStep s t, p.txValid = false)

/-- R10: no step changes the parameters. -/
def Obligations.ConfigurationNeverChanges : Prop :=
  ∀ s t : State, step s = .next t → t.cfg = s.cfg

/-- R25, R128: the colour registers change only in the step of an END that delivers a payload of the class SET_LED_COLOR
(5 bytes, or more under `AT_LEAST`), to its operands, or in a reset, to 0. -/
def Obligations.ColourIsWrittenOnlyBySetOrReset : Prop :=
  ∀ s t : State, step s = .next t →
    (t.colorR = s.colorR ∧ t.colorG = s.colorG ∧ t.colorB = s.colorB) ∨
    (∃ r g b extra rest, s.inputs = .byte 0xFE :: rest ∧ s.frameOpen = true ∧ s.escapePending = false ∧
      s.payload = some (0x00 :: 0x00 :: r :: g :: b :: extra) ∧ (extra = [] ∨ s.cfg.setLenPolicy = .atLeast) ∧
      t.colorR = r ∧ t.colorG = g ∧ t.colorB = b) ∨
    ((∃ offered, s.inputs.head? = some (.reset offered)) ∨ (∃ b, s.inputs.head? = some (.byteCut b))) ∧
      t.colorR = 0 ∧ t.colorG = 0 ∧ t.colorB = 0

/-- R22: a step leaves the cursor; or adds exactly 1, below `CAPACITY - 1`, for a byte of an open frame; or sets it to 0,
at an unescaped END of an open frame or in a reset (R190). It never wraps. -/
def Obligations.CursorMovesByOneOrToZero : Prop :=
  ∀ s t : State, step s = .next t →
    t.writeCursor = s.writeCursor ∨
    (s.writeCursor.toNat < s.cfg.capacity - 1 ∧ t.writeCursor.toNat = s.writeCursor.toNat + 1 ∧
      s.frameOpen = true ∧ ∃ b, s.inputs.head? = some (.byte b)) ∨
    t.writeCursor = 0 ∧
      (s.inputs.head? = some (.byte 0xFE) ∧ s.frameOpen = true ∧ s.escapePending = false ∨
        (∃ offered, s.inputs.head? = some (.reset offered)) ∨ ∃ b, s.inputs.head? = some (.byteCut b))

/-! ## Invariants -/

/-- R30 (a), (b), (c), with R41 (the headroom byte is never written), R32 (every byte below the cursor was written) and
the canonical form of the memory: every step keeps them. -/
def Obligations.EveryStepKeepsTheStateInvariant : Prop :=
  ∀ s t : State, s.Inv → step s = .next t → t.Inv

/-- The invariant holds after reset. -/
def Obligations.StateInvariantHoldsAtReset : Prop := State.reset.Inv

/-- R100, R113, R170: from every state that meets the invariant every step completes, whatever the host does. -/
def Obligations.NoStepStops : Prop := ∀ s : State, s.Inv → ∃ t, step s = .next t

/-- R32, R33, R159: two states of the block that differ only in stale buffer bytes (and in the model's own indices of free
values) make steps with the same events into states that again differ only so. A reset inside a step is left out: its
prefix is a free value (R192). -/
def Obligations.StaleBytesAreNotObservable : Prop :=
  ∀ s t s' t' : State, s.Inv → t.Inv → State.Alike s t → (∀ b, s.inputs.head? ≠ some (.byteCut b)) →
    step s = .next s' → step t = .next t' → State.Alike s' t'

/-- R171, the table: each condition is met exactly for its cause, and the step then does what the table says; and the
sentence after it, which the spec marks as its inference: at most one of the dispatcher's conditions Q3 to Q6 is met in
one step, and Q1 and Q2 exclude each other and exclude those. (`State.Delivers s b p`: the byte is an unescaped END of an
open frame that holds the payload `p`.) -/
def Obligations.ConditionsExcludeEachOther : Prop :=
  ∀ (s : State) (b : Byte),
    (.ignIdle ∈ byteConditions s b ↔ s.frameOpen = false ∧ b ≠ 0xFF) ∧
    (.dropOverflow ∈ byteConditions s b ↔
      s.frameOpen = true ∧ (s.escapePending = true ∨ b ≠ 0xFD ∧ b ≠ 0xFE) ∧
        s.cfg.capacity - 1 ≤ s.writeCursor.toNat) ∧
    (.ignShort ∈ byteConditions s b ↔ ∃ p, s.Delivers b p ∧ p.length < 2) ∧
    (.ignType ∈ byteConditions s b ↔ ∃ p, s.Delivers b p ∧ 2 ≤ p.length ∧ payloadMessageType p ≠ some 0x00) ∧
    (.ignOpcode ∈ byteConditions s b ↔
      ∃ p op, s.Delivers b p ∧ payloadMessageType p = some 0x00 ∧ payloadOpcode p = some op ∧ 0x02 ≤ op.toNat) ∧
    (.ignSetLen ∈ byteConditions s b ↔
      ∃ p, s.Delivers b p ∧ payloadMessageType p = some 0x00 ∧ payloadOpcode p = some 0x00 ∧
        (p.length < 5 ∨ 5 < p.length ∧ s.cfg.setLenPolicy = .exact)) ∧
    (.sinkAbsent ∈ byteConditions s b ↔
      s.cfg.sinkPresent = false ∧ ∃ p, s.Delivers b p ∧ payloadMessageType p = some 0x00 ∧
        (payloadOpcode p = some 0x01 ∨
          payloadOpcode p = some 0x00 ∧ (p.length = 5 ∨ 5 < p.length ∧ s.cfg.setLenPolicy = .atLeast))) ∧
    (∀ rest : List Transfer, s.inputs = .byte b :: rest →
      (.ignIdle ∈ byteConditions s b → step s = .next { s with inputs := rest }) ∧
      (.dropOverflow ∈ byteConditions s b → step s = .next { s with inputs := rest, escapePending := false }) ∧
      ((∃ c ∈ byteConditions s b, c.ofDispatcher = true) → ∃ p, s.Delivers b p ∧
        step s = .next { s with
          inputs := rest
          frameOpen := false
          writeCursor := 0
          trace := s.trace ++ [.frame p] }) ∧
      (.sinkAbsent ∈ byteConditions s b →
        (∃ args, s.Delivers b (0x00 :: 0x01 :: args) ∧
          step s = .next { s with
            inputs := rest
            frameOpen := false
            writeCursor := 0
            trace := s.trace ++ [.frame (0x00 :: 0x01 :: args)] }) ∨
        (∃ r g c extra, s.Delivers b (0x00 :: 0x00 :: r :: g :: c :: extra) ∧
          step s = .next { s with
            inputs := rest
            frameOpen := false
            writeCursor := 0
            colorR := r
            colorG := g
            colorB := c
            trace := s.trace ++ [.frame (0x00 :: 0x00 :: r :: g :: c :: extra), .apply r g c] }))) ∧
    ((byteConditions s b).filter Condition.ofDispatcher).length ≤ 1 ∧
    ¬ (.ignIdle ∈ byteConditions s b ∧ .dropOverflow ∈ byteConditions s b) ∧
    (.ignIdle ∈ byteConditions s b ∨ .dropOverflow ∈ byteConditions s b →
      ∀ c ∈ byteConditions s b, c.ofDispatcher = false)

/-- R179: a step of one endpoint in which the host does not assert `rst`, which is common to all (92_eei_decisions.md
D19), changes no other endpoint. -/
def Obligations.EndpointsAreIndependent : Prop :=
  ∀ (es es' : Endpoints) (k : Nat), stepEndpoint es k = .next es' → (∀ s, es[k]? = some s → s.resetNext = false) →
    es'.length = es.length ∧
    (∀ j, j ≠ k → es'[j]? = es[j]?) ∧
    (∀ s, es[k]? = some s → ∃ t, step s = .next t ∧ es'[k]? = some t)

/-- R179, with D19: the instances start together at reset, each in the state of 10_state.md R31 with its parameters and
a number of its own (notes/assumptions/16.md), and are reset together: the step of an endpoint whose transfer asserts
`rst` leaves every endpoint in `IDLE` with the colour 0. One whose own next transfer says how the reset meets it takes that
transfer; of every other one the events so far and the transfers to come are as before. -/
def Obligations.EndpointsAreResetTogether : Prop :=
  (∀ cfgs : List Config, (resetEndpoints cfgs).length = cfgs.length ∧
    ∀ (k : Nat) (c : Config), cfgs[k]? = some c →
      (resetEndpoints cfgs)[k]? = some { State.reset with cfg := c, endpoint := k }) ∧
  ∀ (es es' : Endpoints) (k : Nat) (s : State), es[k]? = some s → s.resetNext = true → stepEndpoint es k = .next es' →
    es'.length = es.length ∧
    ∀ (j : Nat) (t : State), es[j]? = some t → ∃ t', es'[j]? = some t' ∧
      t'.AtRest ∧ t'.colorR = 0 ∧ t'.colorG = 0 ∧ t'.colorB = 0 ∧ t'.cfg = t.cfg ∧
      (t.resetNext = true → step t = .next t') ∧
      (t.resetNext = false → t'.trace = t.trace ∧ t'.inputs = t.inputs)

/-- R170, R179: from endpoints that all meet the invariant the step of every one completes, leaves all in the invariant,
and changes no endpoint's number (notes/assumptions/16.md). -/
def Obligations.EndpointStepsComplete : Prop :=
  ∀ (es : Endpoints) (k : Nat), (∀ s ∈ es, s.Inv) →
    ∃ es', stepEndpoint es k = .next es' ∧ (∀ s ∈ es', s.Inv) ∧ es'.map State.endpoint = es.map State.endpoint

/-! ## Runs over frames -/

/-- R111: the byte-stuffing property. A compliant frame of any payload of at most `CAPACITY - 1` bytes, from `IDLE`,
delivers exactly that payload at its END, to be dispatched with the colours of the start, and leaves the decoder in
`IDLE`. -/
def Obligations.CompliantFrameDeliversItsPayload : Prop :=
  ∀ (s : State) (p : List Byte), s.AtRest → p.length ≤ s.cfg.capacity - 1 →
    ∃ u t, runBytes s (frameBytes p) = .next t ∧ t.AtRest ∧ t.inputs = s.inputs ∧
      dispatchPayload p u = .next t ∧ u.trace = s.trace ++ [.frame p] ∧
      u.cfg = s.cfg ∧ u.colorR = s.colorR ∧ u.colorG = s.colorG ∧ u.colorB = s.colorB

/-- R101, R107 (90_conflicts.md C5): a frame of any length delivers its first `CAPACITY - 1` bytes, to be dispatched with
the colours of the start. -/
def Obligations.LongFramesAreTruncated : Prop :=
  ∀ (s : State) (p : List Byte), s.AtRest →
    ∃ u t, runBytes s (frameBytes p) = .next t ∧ t.AtRest ∧ t.inputs = s.inputs ∧
      dispatchPayload (p.take (s.cfg.capacity - 1)) u = .next t ∧
      u.trace = s.trace ++ [.frame (p.take (s.cfg.capacity - 1))] ∧
      u.cfg = s.cfg ∧ u.colorR = s.colorR ∧ u.colorG = s.colorG ∧ u.colorB = s.colorB

/-- R160: the same frame sent twice from `IDLE` causes the same events twice. The source says so of well-formed frames;
that it holds for every class and length of payload the spec marks as its inference. -/
def Obligations.RepeatedFramesAnswerAlike : Prop :=
  ∀ (s t u : State) (p : List Byte), s.AtRest →
    runBytes s (frameBytes p) = .next t → runBytes t (frameBytes p) = .next u →
    ∃ es, t.trace = s.trace ++ es ∧ u.trace = t.trace ++ es

/-- R124, R126, R199: from `IDLE`, a SET request and then a GET request, compliantly stuffed, apply the colour, acknowledge
it and report it, for every colour, marker values among them. -/
def Obligations.SetThenGetReportsTheColour : Prop :=
  ∀ (s : State) (r g b : Byte), s.AtRest → 6 ≤ s.cfg.capacity → s.cfg.sinkPresent = true →
    ∃ t, runBytes s (requestSet r g b ++ requestGet) = .next t ∧ t.AtRest ∧
      t.colorR = r ∧ t.colorG = g ∧ t.colorB = b ∧
      t.trace = s.trace ++
        [.frame [0x00, 0x00, r, g, b], .apply r g b,
          .emit 0xFF, .emit 0x01, .emit 0x01, .emit 0xFE,
          .frame [0x00, 0x01],
          .emit 0xFF, .emit 0x01, .emit r, .emit g, .emit b, .emit 0xFE]

/-- R115, first part (marked by the spec as its inference): after a lost END the bytes of two frames, the second frame's
START among them, are delivered as one payload, to be dispatched with the colours of the start; where it does not fit, its
first `CAPACITY - 1` bytes. -/
def Obligations.LostEndMergesTwoFrames : Prop :=
  ∀ (s : State) (p q : List Byte), s.AtRest →
    ∃ u t, runBytes s (0xFF :: p.flatMap stuff ++ frameBytes q) = .next t ∧ t.AtRest ∧ t.inputs = s.inputs ∧
      dispatchPayload ((p ++ 0xFF :: q).take (s.cfg.capacity - 1)) u = .next t ∧
      u.trace = s.trace ++ [.frame ((p ++ 0xFF :: q).take (s.cfg.capacity - 1))] ∧
      u.cfg = s.cfg ∧ u.colorR = s.colorR ∧ u.colorG = s.colorG ∧ u.colorB = s.colorB

/-- R115, second part, and R104: where no frame is open, bytes without a START among them, an END too, leave the state as
it is, so a frame whose START was lost is ignored to its end. -/
def Obligations.BytesOutsideAFrameAreIgnored : Prop :=
  ∀ (s : State) (bytes : List Byte), s.frameOpen = false → 0xFF ∉ bytes → runBytes s bytes = .next s

/-- R142, R143, R123: a colour reply without a marker value, fed to a decoder in `IDLE`, is recovered whole, and its
dispatcher ignores it. -/
def Obligations.RepliesWithoutMarkersAreRecovered : Prop :=
  ∀ (s : State) (r g b : Byte), s.AtRest → 5 ≤ s.cfg.capacity →
    isMarker r = false → isMarker g = false → isMarker b = false →
    ∃ t, runBytes s (responseBytes (colorResult r g b)) = .next t ∧ t.AtRest ∧
      t.colorR = s.colorR ∧ t.colorG = s.colorG ∧ t.colorB = s.colorB ∧
      t.trace = s.trace ++ [.frame [0x01, r, g, b]]

/-- R143, R198: a reply whose red channel is END is cut at it: the decoder delivers the tag alone. -/
def Obligations.ReplyWithEndAsRedIsMisframed : Prop :=
  ∀ (s : State) (g b : Byte), s.AtRest → 2 ≤ s.cfg.capacity →
    ∃ t, runBytes s ((responseBytes (colorResult 0xFE g b)).take 3) = .next t ∧ t.AtRest ∧
      t.trace = s.trace ++ [.frame [0x01]]
end

