-- ==== Sys2Proof/Laws/Memory.lean ====
section
/-! SUPPORT. The laws of the byte store: a read after a write, every other index left alone, the canonical form kept. -/

namespace Sys2Proof.Machine

theorem Memory.read_write_self (m : Memory) (a : Nat) (v : Byte) : Memory.read (Memory.write m a v) a = some v := by
  induction m with
  | nil => simp [Memory.write, Memory.read]
  | cons c rest ih =>
    obtain ⟨k, w⟩ := c
    unfold Memory.write
    split
    · simp [Memory.read]
    · split
      · simp [Memory.read]
      · have : k ≠ a := by omega
        simp [Memory.read, this, ih]

theorem Memory.read_write_other (m : Memory) (a a' : Nat) (v : Byte) (h : a' ≠ a) :
    Memory.read (Memory.write m a v) a' = Memory.read m a' := by
  induction m with
  | nil => simp [Memory.write, Memory.read, h.symm]
  | cons c rest ih =>
    obtain ⟨k, w⟩ := c
    unfold Memory.write
    split
    · simp [Memory.read, h.symm]
    · split
      · rename_i hk
        subst hk
        simp [Memory.read, h.symm]
      · simp [Memory.read, ih]

theorem Memory.read_write (m : Memory) (a a' : Nat) (v : Byte) :
    Memory.read (Memory.write m a v) a' = if a' = a then some v else Memory.read m a' := by
  split
  · rename_i h
    rw [h, Memory.read_write_self]
  · exact Memory.read_write_other m a a' v ‹_›

/-- The indices after a write: the old ones, and the one written. -/
theorem Memory.mem_write (m : Memory) (a : Nat) (v : Byte) (c : Host.Cell) (h : c ∈ Memory.write m a v) :
    c = (a, v) ∨ c ∈ m := by
  induction m with
  | nil => simpa [Memory.write] using h
  | cons d rest ih =>
    obtain ⟨k, w⟩ := d
    unfold Memory.write at h
    split at h
    · simpa using h
    · split at h
      · simp only [List.mem_cons] at h ⊢
        tauto
      · simp only [List.mem_cons] at h ⊢
        rcases h with h | h
        · exact .inr (.inl h)
        · exact (ih h).imp_right .inr

theorem Memory.wf_write (m : Memory) (a : Nat) (v : Byte) (h : Memory.wf m) : Memory.wf (Memory.write m a v) := by
  induction m with
  | nil => simp [Memory.write, Memory.wf]
  | cons c rest ih =>
    obtain ⟨k, w⟩ := c
    simp only [Memory.wf, List.map_cons, List.pairwise_cons, List.mem_map, forall_exists_index, and_imp,
      forall_apply_eq_imp_iff₂] at h ih
    unfold Memory.write
    split
    · simp only [Memory.wf, List.map_cons, List.pairwise_cons, List.mem_cons, List.mem_map]
      refine ⟨?_, ?_, h.2⟩
      · rintro x (rfl | ⟨y, hy, rfl⟩)
        · assumption
        · have := h.1 y hy
          omega
      · rintro x ⟨y, hy, rfl⟩
        exact h.1 y hy
    · split
      · rename_i hk
        subst hk
        simp only [Memory.wf, List.map_cons, List.pairwise_cons, List.mem_map]
        refine ⟨?_, h.2⟩
        rintro x ⟨y, hy, rfl⟩
        exact h.1 y hy
      · simp only [Memory.wf, List.map_cons, List.pairwise_cons, List.mem_map]
        refine ⟨?_, ih h.2⟩
        rintro x ⟨y, hy, rfl⟩
        rcases Memory.mem_write rest a v y hy with rfl | hy
        · show k < a
          omega
        · exact h.1 y hy

theorem Memory.wf_nil : Memory.wf [] := by simp [Memory.wf]

end Sys2Proof.Machine
end

