-- ==== Sys2Proof/Laws/State.lean ====
section
/-! SUPPORT. What each update of the state does to each field: true by unfolding, stated once so that no later proof
unfolds a record update. -/

namespace Sys2Proof.Machine

/-! ### State.memWrite -/

@[simp] theorem State.memWrite_cfg (s : State) (i : Nat) (v : Byte) : (s.memWrite i v).cfg = s.cfg := rfl
@[simp] theorem State.memWrite_frameOpen (s : State) (i : Nat) (v : Byte) :
    (s.memWrite i v).frameOpen = s.frameOpen := rfl
@[simp] theorem State.memWrite_escapePending (s : State) (i : Nat) (v : Byte) :
    (s.memWrite i v).escapePending = s.escapePending := rfl
@[simp] theorem State.memWrite_writeCursor (s : State) (i : Nat) (v : Byte) :
    (s.memWrite i v).writeCursor = s.writeCursor := rfl
@[simp] theorem State.memWrite_frameBuffer (s : State) (i : Nat) (v : Byte) :
    (s.memWrite i v).frameBuffer = Memory.write s.frameBuffer i v := rfl
@[simp] theorem State.memWrite_colorR (s : State) (i : Nat) (v : Byte) : (s.memWrite i v).colorR = s.colorR := rfl
@[simp] theorem State.memWrite_colorG (s : State) (i : Nat) (v : Byte) : (s.memWrite i v).colorG = s.colorG := rfl
@[simp] theorem State.memWrite_colorB (s : State) (i : Nat) (v : Byte) : (s.memWrite i v).colorB = s.colorB := rfl
@[simp] theorem State.memWrite_inputs (s : State) (i : Nat) (v : Byte) : (s.memWrite i v).inputs = s.inputs := rfl
@[simp] theorem State.memWrite_trace (s : State) (i : Nat) (v : Byte) : (s.memWrite i v).trace = s.trace := rfl
@[simp] theorem State.memWrite_draws (s : State) (i : Nat) (v : Byte) : (s.memWrite i v).draws = s.draws := rfl
@[simp] theorem State.memWrite_endpoint (s : State) (i : Nat) (v : Byte) : (s.memWrite i v).endpoint = s.endpoint := rfl

/-! ### State.record -/

@[simp] theorem State.record_cfg (s : State) (e : Event) : (s.record e).cfg = s.cfg := rfl
@[simp] theorem State.record_frameOpen (s : State) (e : Event) : (s.record e).frameOpen = s.frameOpen := rfl
@[simp] theorem State.record_escapePending (s : State) (e : Event) :
    (s.record e).escapePending = s.escapePending := rfl
@[simp] theorem State.record_writeCursor (s : State) (e : Event) : (s.record e).writeCursor = s.writeCursor := rfl
@[simp] theorem State.record_frameBuffer (s : State) (e : Event) : (s.record e).frameBuffer = s.frameBuffer := rfl
@[simp] theorem State.record_colorR (s : State) (e : Event) : (s.record e).colorR = s.colorR := rfl
@[simp] theorem State.record_colorG (s : State) (e : Event) : (s.record e).colorG = s.colorG := rfl
@[simp] theorem State.record_colorB (s : State) (e : Event) : (s.record e).colorB = s.colorB := rfl
@[simp] theorem State.record_inputs (s : State) (e : Event) : (s.record e).inputs = s.inputs := rfl
@[simp] theorem State.record_trace (s : State) (e : Event) : (s.record e).trace = s.trace ++ [e] := rfl
@[simp] theorem State.record_draws (s : State) (e : Event) : (s.record e).draws = s.draws := rfl
@[simp] theorem State.record_endpoint (s : State) (e : Event) : (s.record e).endpoint = s.endpoint := rfl

/-! ### State.deliver -/

@[simp] theorem State.deliver_cfg (s : State) (p : List Byte) : (s.deliver p).cfg = s.cfg := rfl
@[simp] theorem State.deliver_frameOpen (s : State) (p : List Byte) : (s.deliver p).frameOpen = s.frameOpen := rfl
@[simp] theorem State.deliver_escapePending (s : State) (p : List Byte) :
    (s.deliver p).escapePending = s.escapePending := rfl
@[simp] theorem State.deliver_writeCursor (s : State) (p : List Byte) :
    (s.deliver p).writeCursor = s.writeCursor := rfl
@[simp] theorem State.deliver_frameBuffer (s : State) (p : List Byte) :
    (s.deliver p).frameBuffer = s.frameBuffer := rfl
@[simp] theorem State.deliver_colorR (s : State) (p : List Byte) : (s.deliver p).colorR = s.colorR := rfl
@[simp] theorem State.deliver_colorG (s : State) (p : List Byte) : (s.deliver p).colorG = s.colorG := rfl
@[simp] theorem State.deliver_colorB (s : State) (p : List Byte) : (s.deliver p).colorB = s.colorB := rfl
@[simp] theorem State.deliver_inputs (s : State) (p : List Byte) : (s.deliver p).inputs = s.inputs := rfl
@[simp] theorem State.deliver_trace (s : State) (p : List Byte) : (s.deliver p).trace = s.trace ++ [.frame p] := rfl
@[simp] theorem State.deliver_draws (s : State) (p : List Byte) : (s.deliver p).draws = s.draws := rfl
@[simp] theorem State.deliver_endpoint (s : State) (p : List Byte) : (s.deliver p).endpoint = s.endpoint := rfl

/-! ### State.applyColor -/

@[simp] theorem State.applyColor_cfg (s : State) (r g b : Byte) : (s.applyColor r g b).cfg = s.cfg := rfl
@[simp] theorem State.applyColor_frameOpen (s : State) (r g b : Byte) :
    (s.applyColor r g b).frameOpen = s.frameOpen := rfl
@[simp] theorem State.applyColor_escapePending (s : State) (r g b : Byte) :
    (s.applyColor r g b).escapePending = s.escapePending := rfl
@[simp] theorem State.applyColor_writeCursor (s : State) (r g b : Byte) :
    (s.applyColor r g b).writeCursor = s.writeCursor := rfl
@[simp] theorem State.applyColor_frameBuffer (s : State) (r g b : Byte) :
    (s.applyColor r g b).frameBuffer = s.frameBuffer := rfl
@[simp] theorem State.applyColor_colorR (s : State) (r g b : Byte) : (s.applyColor r g b).colorR = s.colorR := rfl
@[simp] theorem State.applyColor_colorG (s : State) (r g b : Byte) : (s.applyColor r g b).colorG = s.colorG := rfl
@[simp] theorem State.applyColor_colorB (s : State) (r g b : Byte) : (s.applyColor r g b).colorB = s.colorB := rfl
@[simp] theorem State.applyColor_inputs (s : State) (r g b : Byte) : (s.applyColor r g b).inputs = s.inputs := rfl
@[simp] theorem State.applyColor_trace (s : State) (r g b : Byte) :
    (s.applyColor r g b).trace = s.trace ++ [.apply r g b] := rfl
@[simp] theorem State.applyColor_draws (s : State) (r g b : Byte) : (s.applyColor r g b).draws = s.draws := rfl
@[simp] theorem State.applyColor_endpoint (s : State) (r g b : Byte) : (s.applyColor r g b).endpoint = s.endpoint := rfl

/-! ### State.setColor -/

@[simp] theorem State.setColor_cfg (s : State) (r g b : Byte) : (s.setColor r g b).cfg = s.cfg := rfl
@[simp] theorem State.setColor_frameOpen (s : State) (r g b : Byte) :
    (s.setColor r g b).frameOpen = s.frameOpen := rfl
@[simp] theorem State.setColor_escapePending (s : State) (r g b : Byte) :
    (s.setColor r g b).escapePending = s.escapePending := rfl
@[simp] theorem State.setColor_writeCursor (s : State) (r g b : Byte) :
    (s.setColor r g b).writeCursor = s.writeCursor := rfl
@[simp] theorem State.setColor_frameBuffer (s : State) (r g b : Byte) :
    (s.setColor r g b).frameBuffer = s.frameBuffer := rfl
@[simp] theorem State.setColor_colorR (s : State) (r g b : Byte) : (s.setColor r g b).colorR = r := rfl
@[simp] theorem State.setColor_colorG (s : State) (r g b : Byte) : (s.setColor r g b).colorG = g := rfl
@[simp] theorem State.setColor_colorB (s : State) (r g b : Byte) : (s.setColor r g b).colorB = b := rfl
@[simp] theorem State.setColor_inputs (s : State) (r g b : Byte) : (s.setColor r g b).inputs = s.inputs := rfl
@[simp] theorem State.setColor_trace (s : State) (r g b : Byte) : (s.setColor r g b).trace = s.trace := rfl
@[simp] theorem State.setColor_draws (s : State) (r g b : Byte) : (s.setColor r g b).draws = s.draws := rfl
@[simp] theorem State.setColor_endpoint (s : State) (r g b : Byte) : (s.setColor r g b).endpoint = s.endpoint := rfl

/-! ### State.openFrame -/

@[simp] theorem State.openFrame_cfg (s : State) : (s.openFrame).cfg = s.cfg := rfl
@[simp] theorem State.openFrame_frameOpen (s : State) : (s.openFrame).frameOpen = true := rfl
@[simp] theorem State.openFrame_escapePending (s : State) : (s.openFrame).escapePending = s.escapePending := rfl
@[simp] theorem State.openFrame_writeCursor (s : State) : (s.openFrame).writeCursor = s.writeCursor := rfl
@[simp] theorem State.openFrame_frameBuffer (s : State) : (s.openFrame).frameBuffer = s.frameBuffer := rfl
@[simp] theorem State.openFrame_colorR (s : State) : (s.openFrame).colorR = s.colorR := rfl
@[simp] theorem State.openFrame_colorG (s : State) : (s.openFrame).colorG = s.colorG := rfl
@[simp] theorem State.openFrame_colorB (s : State) : (s.openFrame).colorB = s.colorB := rfl
@[simp] theorem State.openFrame_inputs (s : State) : (s.openFrame).inputs = s.inputs := rfl
@[simp] theorem State.openFrame_trace (s : State) : (s.openFrame).trace = s.trace := rfl
@[simp] theorem State.openFrame_draws (s : State) : (s.openFrame).draws = s.draws := rfl
@[simp] theorem State.openFrame_endpoint (s : State) : (s.openFrame).endpoint = s.endpoint := rfl

/-! ### State.armEscape -/

@[simp] theorem State.armEscape_cfg (s : State) : (s.armEscape).cfg = s.cfg := rfl
@[simp] theorem State.armEscape_frameOpen (s : State) : (s.armEscape).frameOpen = s.frameOpen := rfl
@[simp] theorem State.armEscape_escapePending (s : State) : (s.armEscape).escapePending = true := rfl
@[simp] theorem State.armEscape_writeCursor (s : State) : (s.armEscape).writeCursor = s.writeCursor := rfl
@[simp] theorem State.armEscape_frameBuffer (s : State) : (s.armEscape).frameBuffer = s.frameBuffer := rfl
@[simp] theorem State.armEscape_colorR (s : State) : (s.armEscape).colorR = s.colorR := rfl
@[simp] theorem State.armEscape_colorG (s : State) : (s.armEscape).colorG = s.colorG := rfl
@[simp] theorem State.armEscape_colorB (s : State) : (s.armEscape).colorB = s.colorB := rfl
@[simp] theorem State.armEscape_inputs (s : State) : (s.armEscape).inputs = s.inputs := rfl
@[simp] theorem State.armEscape_trace (s : State) : (s.armEscape).trace = s.trace := rfl
@[simp] theorem State.armEscape_draws (s : State) : (s.armEscape).draws = s.draws := rfl
@[simp] theorem State.armEscape_endpoint (s : State) : (s.armEscape).endpoint = s.endpoint := rfl

/-! ### State.clearEscape -/

@[simp] theorem State.clearEscape_cfg (s : State) : (s.clearEscape).cfg = s.cfg := rfl
@[simp] theorem State.clearEscape_frameOpen (s : State) : (s.clearEscape).frameOpen = s.frameOpen := rfl
@[simp] theorem State.clearEscape_escapePending (s : State) : (s.clearEscape).escapePending = false := rfl
@[simp] theorem State.clearEscape_writeCursor (s : State) : (s.clearEscape).writeCursor = s.writeCursor := rfl
@[simp] theorem State.clearEscape_frameBuffer (s : State) : (s.clearEscape).frameBuffer = s.frameBuffer := rfl
@[simp] theorem State.clearEscape_colorR (s : State) : (s.clearEscape).colorR = s.colorR := rfl
@[simp] theorem State.clearEscape_colorG (s : State) : (s.clearEscape).colorG = s.colorG := rfl
@[simp] theorem State.clearEscape_colorB (s : State) : (s.clearEscape).colorB = s.colorB := rfl
@[simp] theorem State.clearEscape_inputs (s : State) : (s.clearEscape).inputs = s.inputs := rfl
@[simp] theorem State.clearEscape_trace (s : State) : (s.clearEscape).trace = s.trace := rfl
@[simp] theorem State.clearEscape_draws (s : State) : (s.clearEscape).draws = s.draws := rfl
@[simp] theorem State.clearEscape_endpoint (s : State) : (s.clearEscape).endpoint = s.endpoint := rfl

/-! ### State.closeFrame -/

@[simp] theorem State.closeFrame_cfg (s : State) : (s.closeFrame).cfg = s.cfg := rfl
@[simp] theorem State.closeFrame_frameOpen (s : State) : (s.closeFrame).frameOpen = false := rfl
@[simp] theorem State.closeFrame_escapePending (s : State) : (s.closeFrame).escapePending = s.escapePending := rfl
@[simp] theorem State.closeFrame_writeCursor (s : State) : (s.closeFrame).writeCursor = 0 := rfl
@[simp] theorem State.closeFrame_frameBuffer (s : State) : (s.closeFrame).frameBuffer = s.frameBuffer := rfl
@[simp] theorem State.closeFrame_colorR (s : State) : (s.closeFrame).colorR = s.colorR := rfl
@[simp] theorem State.closeFrame_colorG (s : State) : (s.closeFrame).colorG = s.colorG := rfl
@[simp] theorem State.closeFrame_colorB (s : State) : (s.closeFrame).colorB = s.colorB := rfl
@[simp] theorem State.closeFrame_inputs (s : State) : (s.closeFrame).inputs = s.inputs := rfl
@[simp] theorem State.closeFrame_trace (s : State) : (s.closeFrame).trace = s.trace := rfl
@[simp] theorem State.closeFrame_draws (s : State) : (s.closeFrame).draws = s.draws := rfl
@[simp] theorem State.closeFrame_endpoint (s : State) : (s.closeFrame).endpoint = s.endpoint := rfl

/-! ### State.applyReset -/

@[simp] theorem State.applyReset_cfg (s : State) : (s.applyReset).cfg = s.cfg := rfl
@[simp] theorem State.applyReset_frameOpen (s : State) : (s.applyReset).frameOpen = false := rfl
@[simp] theorem State.applyReset_escapePending (s : State) : (s.applyReset).escapePending = false := rfl
@[simp] theorem State.applyReset_writeCursor (s : State) : (s.applyReset).writeCursor = 0 := rfl
@[simp] theorem State.applyReset_frameBuffer (s : State) : (s.applyReset).frameBuffer = [] := rfl
@[simp] theorem State.applyReset_colorR (s : State) : (s.applyReset).colorR = 0 := rfl
@[simp] theorem State.applyReset_colorG (s : State) : (s.applyReset).colorG = 0 := rfl
@[simp] theorem State.applyReset_colorB (s : State) : (s.applyReset).colorB = 0 := rfl
@[simp] theorem State.applyReset_inputs (s : State) : (s.applyReset).inputs = s.inputs := rfl
@[simp] theorem State.applyReset_trace (s : State) : (s.applyReset).trace = s.trace := rfl
@[simp] theorem State.applyReset_draws (s : State) : (s.applyReset).draws = s.draws + 1 := rfl
@[simp] theorem State.applyReset_endpoint (s : State) : (s.applyReset).endpoint = s.endpoint := rfl

/-! ### State.cutTrace -/

@[simp] theorem State.cutTrace_cfg (s : State) (whole : State) : (s.cutTrace whole).cfg = s.cfg := rfl
@[simp] theorem State.cutTrace_frameOpen (s : State) (whole : State) :
    (s.cutTrace whole).frameOpen = s.frameOpen := rfl
@[simp] theorem State.cutTrace_escapePending (s : State) (whole : State) :
    (s.cutTrace whole).escapePending = s.escapePending := rfl
@[simp] theorem State.cutTrace_writeCursor (s : State) (whole : State) :
    (s.cutTrace whole).writeCursor = s.writeCursor := rfl
@[simp] theorem State.cutTrace_frameBuffer (s : State) (whole : State) :
    (s.cutTrace whole).frameBuffer = s.frameBuffer := rfl
@[simp] theorem State.cutTrace_colorR (s : State) (whole : State) : (s.cutTrace whole).colorR = s.colorR := rfl
@[simp] theorem State.cutTrace_colorG (s : State) (whole : State) : (s.cutTrace whole).colorG = s.colorG := rfl
@[simp] theorem State.cutTrace_colorB (s : State) (whole : State) : (s.cutTrace whole).colorB = s.colorB := rfl
@[simp] theorem State.cutTrace_inputs (s : State) (whole : State) : (s.cutTrace whole).inputs = s.inputs := rfl
@[simp] theorem State.cutTrace_trace (s : State) (whole : State) :
    (s.cutTrace whole).trace = s.trace ++ (whole.trace.drop s.trace.length).take (Config.freeCut s.endpoint s.draws) := rfl
@[simp] theorem State.cutTrace_draws (s : State) (whole : State) : (s.cutTrace whole).draws = s.draws := rfl
@[simp] theorem State.cutTrace_endpoint (s : State) (whole : State) : (s.cutTrace whole).endpoint = s.endpoint := rfl

/-! ### State.fed -/

@[simp] theorem State.fed_cfg (s : State) (bytes : List Byte) : (s.fed bytes).cfg = s.cfg := rfl
@[simp] theorem State.fed_frameOpen (s : State) (bytes : List Byte) : (s.fed bytes).frameOpen = s.frameOpen := rfl
@[simp] theorem State.fed_escapePending (s : State) (bytes : List Byte) :
    (s.fed bytes).escapePending = s.escapePending := rfl
@[simp] theorem State.fed_writeCursor (s : State) (bytes : List Byte) :
    (s.fed bytes).writeCursor = s.writeCursor := rfl
@[simp] theorem State.fed_frameBuffer (s : State) (bytes : List Byte) :
    (s.fed bytes).frameBuffer = s.frameBuffer := rfl
@[simp] theorem State.fed_colorR (s : State) (bytes : List Byte) : (s.fed bytes).colorR = s.colorR := rfl
@[simp] theorem State.fed_colorG (s : State) (bytes : List Byte) : (s.fed bytes).colorG = s.colorG := rfl
@[simp] theorem State.fed_colorB (s : State) (bytes : List Byte) : (s.fed bytes).colorB = s.colorB := rfl
@[simp] theorem State.fed_inputs (s : State) (bytes : List Byte) :
    (s.fed bytes).inputs = bytes.map .byte ++ s.inputs := rfl
@[simp] theorem State.fed_trace (s : State) (bytes : List Byte) : (s.fed bytes).trace = s.trace := rfl
@[simp] theorem State.fed_draws (s : State) (bytes : List Byte) : (s.fed bytes).draws = s.draws := rfl
@[simp] theorem State.fed_endpoint (s : State) (bytes : List Byte) : (s.fed bytes).endpoint = s.endpoint := rfl

end Sys2Proof.Machine
end

