-- ==== Sys2Proof/Laws/Ops.lean ====
section
/-! SUPPORT. Everything each shared operation can do, said once: `append`, `emit`, `encodeResponse`, the reads of the
buffer. -/

namespace Sys2Proof.Machine

/-! ### The buffer -/

theorem State.readBuffer_memWrite (s : State) (i a : Nat) (v : Byte) :
    (s.memWrite i v).readBuffer a = if a = i then v else s.readBuffer a := by
  simp only [State.readBuffer, State.memWrite_frameBuffer, State.memWrite_draws, State.memWrite_endpoint, Memory.read_write]
  split <;> rfl

theorem State.memRead_length {s : State} {i n : Nat} {p : List Byte} (h : s.memRead i n = some p) : p.length = n := by
  simp only [State.memRead] at h
  split at h
  · simp only [Option.some.injEq] at h
    simp [← h]
  · simp at h

theorem State.payload_eq_some (s : State) (h : s.writeCursor.toNat ≤ s.cfg.maxPayload) :
    s.payload = some ((List.range' 0 s.writeCursor.toNat).map s.readBuffer) := by
  simp [State.payload, State.memRead, h]

theorem State.payload_eq_none (s : State) (h : s.cfg.maxPayload < s.writeCursor.toNat) : s.payload = none := by
  simp [State.payload, State.memRead, h]

/-- A payload is never longer than `CAPACITY - 1` (30_encoding.md R73). -/
theorem State.payload_length_le {s : State} {p : List Byte} (h : s.payload = some p) :
    p.length ≤ s.cfg.maxPayload := by
  have hl := State.memRead_length h
  by_cases hc : s.writeCursor.toNat ≤ s.cfg.maxPayload
  · omega
  · rw [State.payload_eq_none s (by omega)] at h
    cases h

theorem cursor_lt_iff (s : State) : s.writeCursor < s.cfg.headroomIndex ↔ s.writeCursor.toNat < s.cfg.maxPayload := by
  simp [BitVec.lt_def, Config.maxPayload]

theorem maxPayload_eq (c : Config) : c.capacity - 1 = c.maxPayload := by simp [Config.capacity]

/-- `append` with room (40_frame_decoder.md R101). -/
theorem State.append_of_lt (s : State) (b : Byte) (h : s.writeCursor.toNat < s.cfg.maxPayload) :
    s.append b = { s with
      frameBuffer := Memory.write s.frameBuffer s.writeCursor.toNat b
      writeCursor := s.writeCursor + 1 } := by
  rw [State.append, if_pos ((cursor_lt_iff s).2 h)]
  rfl

/-- `append` without room: dropped. -/
theorem State.append_of_le (s : State) (b : Byte) (h : s.cfg.maxPayload ≤ s.writeCursor.toNat) : s.append b = s := by
  rw [State.append, if_neg]
  rw [cursor_lt_iff]
  omega

theorem cursor_succ (s : State) (h : s.writeCursor.toNat < s.cfg.maxPayload) :
    (s.writeCursor + 1).toNat = s.writeCursor.toNat + 1 := by
  have := s.cfg.headroomIndex.isLt
  simp only [Config.maxPayload] at h
  have h1 : (1 : BitVec 8).toNat = 1 := rfl
  rw [BitVec.toNat_add, h1]
  omega

/-! `append` changes nothing but the cursor and the buffer. -/

@[simp] theorem State.append_cfg (s : State) (b : Byte) : (s.append b).cfg = s.cfg := by
  unfold State.append
  split <;> rfl

@[simp] theorem State.append_frameOpen (s : State) (b : Byte) : (s.append b).frameOpen = s.frameOpen := by
  unfold State.append
  split <;> rfl

@[simp] theorem State.append_escapePending (s : State) (b : Byte) : (s.append b).escapePending = s.escapePending := by
  unfold State.append
  split <;> rfl

@[simp] theorem State.append_colorR (s : State) (b : Byte) : (s.append b).colorR = s.colorR := by
  unfold State.append
  split <;> rfl

@[simp] theorem State.append_colorG (s : State) (b : Byte) : (s.append b).colorG = s.colorG := by
  unfold State.append
  split <;> rfl

@[simp] theorem State.append_colorB (s : State) (b : Byte) : (s.append b).colorB = s.colorB := by
  unfold State.append
  split <;> rfl

@[simp] theorem State.append_inputs (s : State) (b : Byte) : (s.append b).inputs = s.inputs := by
  unfold State.append
  split <;> rfl

@[simp] theorem State.append_trace (s : State) (b : Byte) : (s.append b).trace = s.trace := by
  unfold State.append
  split <;> rfl

@[simp] theorem State.append_draws (s : State) (b : Byte) : (s.append b).draws = s.draws := by
  unfold State.append
  split <;> rfl

@[simp] theorem State.append_endpoint (s : State) (b : Byte) : (s.append b).endpoint = s.endpoint := by
  unfold State.append
  split <;> rfl

/-! ### Events -/

theorem State.emit_eq (s : State) (b : Byte) :
    s.emit b = { s with trace := s.trace ++ if s.cfg.sinkPresent = true then [.emit b] else [] } := by
  unfold State.emit
  split <;> simp [State.record]

theorem State.emitAll_eq (s : State) (bytes : List Byte) :
    s.emitAll bytes = { s with trace := s.trace ++ if s.cfg.sinkPresent = true then bytes.map .emit else [] } := by
  induction bytes generalizing s with
  | nil => simp [State.emitAll]
  | cons b rest ih =>
    have hu : s.emitAll (b :: rest) = (s.emit b).emitAll rest := rfl
    rw [hu, ih, State.emit_eq]
    cases s.cfg.sinkPresent <;> simp

/-- `encodeResponse` writes no state: it appends the frame's bytes to the trace, where there is a sink
(42_frame_encoder.md R140, R145). -/
theorem State.encodeResponse_eq (s : State) (result : List Byte) :
    s.encodeResponse result = { s with
      trace := s.trace ++ if s.cfg.sinkPresent = true then (responseBytes result).map .emit else [] } := by
  simp only [State.encodeResponse, State.emit_eq, State.emitAll_eq]
  cases s.cfg.sinkPresent <;> simp [responseBytes]

end Sys2Proof.Machine
end

