-- ==== Sys2Proof/Laws/Step.lean ====
section
/-! SUPPORT. Everything a dispatch, a byte and a step can do, said once each: later proofs split on these cases and never
unfold the machine. -/

namespace Sys2Proof.Machine

/-! ### decodePayload -/

theorem decodePayload_short (policy : SetLenPolicy) (p : List Byte) (h : p.length < 2) :
    decodePayload policy p = .dispatchShort p := by
  rcases p with _ | ⟨a, _ | ⟨c, rest⟩⟩
  · rfl
  · rfl
  · simp at h

theorem decodeSet_cases (policy : SetLenPolicy) (args : List Byte) :
    (∃ r g b extra, args = r :: g :: b :: extra ∧ (extra = [] ∨ policy = .atLeast) ∧
      decodeSet policy args = .setLedColor r g b extra) ∨
    ((args.length < 3 ∨ 3 < args.length ∧ policy = .exact) ∧ decodeSet policy args = .setLedColorBadlen args) := by
  rcases args with _ | ⟨r, _ | ⟨g, _ | ⟨b, _ | ⟨x, rest⟩⟩⟩⟩
  · exact .inr ⟨.inl (by simp), rfl⟩
  · exact .inr ⟨.inl (by simp), rfl⟩
  · exact .inr ⟨.inl (by simp), rfl⟩
  · exact .inl ⟨r, g, b, [], rfl, .inl rfl, rfl⟩
  · cases policy
    · exact .inr ⟨.inr ⟨by simp, rfl⟩, rfl⟩
    · exact .inl ⟨r, g, b, x :: rest, rfl, .inr rfl, rfl⟩

/-- The class of a payload, with what it says of the payload (41_command_dispatcher.md R121). -/
theorem decodePayload_cases (policy : SetLenPolicy) (p : List Byte) :
    (p.length < 2 ∧ decodePayload policy p = .dispatchShort p) ∨
    (∃ m op args, p = m :: op :: args ∧ m ≠ typeRequest ∧
      decodePayload policy p = .dispatchNotRequest m op args) ∨
    (∃ r g b extra, p = typeRequest :: opSetColor :: r :: g :: b :: extra ∧ (extra = [] ∨ policy = .atLeast) ∧
      decodePayload policy p = .setLedColor r g b extra) ∨
    (∃ args, p = typeRequest :: opSetColor :: args ∧ (args.length < 3 ∨ 3 < args.length ∧ policy = .exact) ∧
      decodePayload policy p = .setLedColorBadlen args) ∨
    (∃ args, p = typeRequest :: opGetColor :: args ∧ decodePayload policy p = .getLedColor args) ∨
    (∃ op args, p = typeRequest :: op :: args ∧ op ≠ opSetColor ∧ op ≠ opGetColor ∧
      decodePayload policy p = .dispatchUnknownOpcode op args) := by
  rcases p with _ | ⟨m, _ | ⟨op, args⟩⟩
  · exact .inl ⟨by simp, rfl⟩
  · exact .inl ⟨by simp, rfl⟩
  by_cases hm : m = typeRequest
  · subst hm
    by_cases hs : op = opSetColor
    · subst hs
      rcases decodeSet_cases policy args with ⟨r, g, b, extra, rfl, hx, he⟩ | ⟨hx, he⟩
      · exact .inr (.inr (.inl ⟨r, g, b, extra, rfl, hx, by simpa [decodePayload] using he⟩))
      · exact .inr (.inr (.inr (.inl ⟨args, rfl, hx, by simpa [decodePayload] using he⟩)))
    · by_cases hg : op = opGetColor
      · subst hg
        exact .inr (.inr (.inr (.inr (.inl ⟨args, rfl, by simp [decodePayload]⟩))))
      · exact .inr (.inr (.inr (.inr (.inr ⟨op, args, rfl, hs, hg, by simp [decodePayload, hs, hg]⟩))))
  · exact .inr (.inl ⟨m, op, args, rfl, hm, by simp [decodePayload, hm]⟩)

/-! ### dispatchPayload -/

/-- The events of a response frame (42_frame_encoder.md R140). -/
def responseEvents (s : State) (result : List Byte) : List Event :=
  if s.cfg.sinkPresent = true then (responseBytes result).map .emit else []

/-- What a payload does is one of three, chosen by the policy and the payload alone: nothing, a SET, or a GET. -/
theorem dispatchPayload_cases (policy : SetLenPolicy) (p : List Byte) :
    (∀ s : State, s.cfg.setLenPolicy = policy → dispatchPayload p s = .next s) ∨
    (∃ r g b extra, p = typeRequest :: opSetColor :: r :: g :: b :: extra ∧ (extra = [] ∨ policy = .atLeast) ∧
      ∀ s : State, s.cfg.setLenPolicy = policy → dispatchPayload p s = .next { s with
        colorR := r
        colorG := g
        colorB := b
        trace := s.trace ++ .apply r g b :: responseEvents s ackResult }) ∨
    (∃ args, p = typeRequest :: opGetColor :: args ∧
      ∀ s : State, s.cfg.setLenPolicy = policy → dispatchPayload p s = .next { s with
        trace := s.trace ++ responseEvents s (colorResult s.colorR s.colorG s.colorB) }) := by
  have run : ∀ {i : Instr} {s : State}, decodePayload policy p = i → s.cfg.setLenPolicy = policy →
      dispatchPayload p s = exec i s := fun he hp => by rw [dispatchPayload, hp, he]
  rcases decodePayload_cases policy p with ⟨-, he⟩ | ⟨m, op, args, -, -, he⟩ | ⟨r, g, b, extra, rfl, hx, he⟩ |
    ⟨args, -, -, he⟩ | ⟨args, rfl, he⟩ | ⟨op, args, -, -, -, he⟩
  · exact .inl fun _ hp => run he hp
  · exact .inl fun _ hp => run he hp
  · refine .inr (.inl ⟨r, g, b, extra, rfl, hx, fun s hp => ?_⟩)
    rw [run he hp]
    simp only [exec, execSetLedColor, State.encodeResponse_eq]
    simp [State.applyColor, State.setColor, State.record, responseEvents]
    rfl
  · exact .inl fun _ hp => run he hp
  · refine .inr (.inr ⟨args, rfl, fun s hp => ?_⟩)
    rw [run he hp]
    simp only [exec, execGetLedColor, State.encodeResponse_eq, responseEvents]
  · exact .inl fun _ hp => run he hp

theorem dispatchPayload_completes (p : List Byte) (s : State) : ∃ t, dispatchPayload p s = .next t := by
  rcases dispatchPayload_cases s.cfg.setLenPolicy p with h | ⟨r, g, b, x, -, -, h⟩ | ⟨a, -, h⟩ <;>
    exact ⟨_, h s rfl⟩

/-- Dispatching changes only the colour and the trace (41_command_dispatcher.md R120). -/
theorem dispatchPayload_frame {p : List Byte} {s t : State} (h : dispatchPayload p s = .next t) :
    t.cfg = s.cfg ∧ t.frameOpen = s.frameOpen ∧ t.escapePending = s.escapePending ∧ t.writeCursor = s.writeCursor ∧
      t.frameBuffer = s.frameBuffer ∧ t.inputs = s.inputs ∧ t.draws = s.draws ∧
      t.endpoint = s.endpoint := by
  rcases dispatchPayload_cases s.cfg.setLenPolicy p with hc | ⟨r, g, b, x, -, -, hc⟩ | ⟨a, -, hc⟩ <;>
  · rw [hc s rfl] at h
    cases h
    exact ⟨rfl, rfl, rfl, rfl, rfl, rfl, rfl, rfl⟩

/-! ### acceptByte -/

theorem acceptByte_idle_start (s : State) (h : s.frameOpen = false) : acceptByte markStart s = .next s.openFrame := by
  simp [acceptByte, State.classify, decodeRx, h, exec, execRxIdleStart, afterByte, State.returned]

theorem acceptByte_idle_ignore (s : State) (b : Byte) (h : s.frameOpen = false) (hb : b ≠ markStart) :
    acceptByte b s = .next s := by
  simp [acceptByte, State.classify, decodeRx, h, hb, exec, execRxIdleIgnore, afterByte, State.returned]

theorem acceptByte_escaped (s : State) (b : Byte) (h : s.frameOpen = true) (he : s.escapePending = true) :
    acceptByte b s = .next (s.clearEscape.append b) := by
  simp [acceptByte, State.classify, decodeRx, h, he, exec, execRxEscapedLiteral, afterByte, State.returned]

theorem acceptByte_escape (s : State) (h : s.frameOpen = true) (he : s.escapePending = false) :
    acceptByte markEscape s = .next s.armEscape := by
  simp [acceptByte, State.classify, decodeRx, h, he, exec, execRxEscape, afterByte, State.returned]

theorem acceptByte_data (s : State) (b : Byte) (h : s.frameOpen = true) (he : s.escapePending = false)
    (h1 : b ≠ markEscape) (h2 : b ≠ markEnd) : acceptByte b s = .next (s.append b) := by
  simp [acceptByte, State.classify, decodeRx, h, he, h1, h2, exec, execRxData, afterByte, State.returned]

theorem acceptByte_end (s : State) (p : List Byte) (h : s.frameOpen = true) (he : s.escapePending = false)
    (hp : s.payload = some p) : acceptByte markEnd s = dispatchPayload p (s.closeFrame.deliver p) := by
  have hm : markEnd ≠ markEscape := by decide
  simp [acceptByte, State.classify, decodeRx, h, he, hm, exec, execRxEnd, afterByte, State.returned, hp]

theorem acceptByte_end_fault (s : State) (h : s.frameOpen = true) (he : s.escapePending = false)
    (hp : s.payload = none) : acceptByte markEnd s = .fault .bufferIndexOutOfRange := by
  have hm : markEnd ≠ markEscape := by decide
  simp [acceptByte, State.classify, decodeRx, h, he, hm, exec, execRxEnd, hp]

/-- A byte stops in one case only: an END with the cursor outside the buffer. -/
theorem acceptByte_stops {s : State} {b : Byte} (h : ∀ t, acceptByte b s ≠ .next t) :
    s.frameOpen = true ∧ s.escapePending = false ∧ b = markEnd ∧ s.payload = none := by
  cases ho : s.frameOpen
  · by_cases hb : b = markStart
    · exact absurd (hb ▸ acceptByte_idle_start s ho) (h _)
    · exact absurd (acceptByte_idle_ignore s b ho hb) (h _)
  · cases he : s.escapePending
    · by_cases h1 : b = markEscape
      · exact absurd (h1 ▸ acceptByte_escape s ho he) (h _)
      · by_cases h2 : b = markEnd
        · subst h2
          cases hp : s.payload with
          | none => exact ⟨rfl, rfl, rfl, rfl⟩
          | some p =>
            obtain ⟨t, ht⟩ := dispatchPayload_completes p (s.closeFrame.deliver p)
            exact absurd ((acceptByte_end s p ho he hp).trans ht) (h t)
        · exact absurd (acceptByte_data s b ho he h1 h2) (h _)
    · exact absurd (acceptByte_escaped s b ho he) (h _)

/-- What the step of one byte can do (43_sequencer.md R152). -/
theorem acceptByte_cases {s t : State} {b : Byte} (h : acceptByte b s = .next t) :
    (s.frameOpen = false ∧ b = markStart ∧ t = s.openFrame) ∨
    (s.frameOpen = false ∧ b ≠ markStart ∧ t = s) ∨
    (s.frameOpen = true ∧ s.escapePending = true ∧ t = s.clearEscape.append b) ∨
    (s.frameOpen = true ∧ s.escapePending = false ∧ b = markEscape ∧ t = s.armEscape) ∨
    (s.frameOpen = true ∧ s.escapePending = false ∧ b = markEnd ∧
      ∃ p, s.payload = some p ∧ dispatchPayload p (s.closeFrame.deliver p) = .next t) ∨
    (s.frameOpen = true ∧ s.escapePending = false ∧ b ≠ markEscape ∧ b ≠ markEnd ∧ t = s.append b) := by
  cases ho : s.frameOpen
  · by_cases hb : b = markStart
    · subst hb
      rw [acceptByte_idle_start s ho] at h
      cases h
      exact .inl ⟨rfl, rfl, rfl⟩
    · rw [acceptByte_idle_ignore s b ho hb] at h
      cases h
      exact .inr (.inl ⟨rfl, hb, rfl⟩)
  · cases he : s.escapePending
    · by_cases h1 : b = markEscape
      · subst h1
        rw [acceptByte_escape s ho he] at h
        cases h
        exact .inr (.inr (.inr (.inl ⟨rfl, rfl, rfl, rfl⟩)))
      · by_cases h2 : b = markEnd
        · subst h2
          cases hp : s.payload with
          | none =>
            rw [acceptByte_end_fault s ho he hp] at h
            cases h
          | some p =>
            rw [acceptByte_end s p ho he hp] at h
            exact .inr (.inr (.inr (.inr (.inl ⟨rfl, rfl, rfl, p, rfl, h⟩))))
        · rw [acceptByte_data s b ho he h1 h2] at h
          cases h
          exact .inr (.inr (.inr (.inr (.inr ⟨rfl, rfl, h1, h2, rfl⟩))))
    · rw [acceptByte_escaped s b ho he] at h
      cases h
      exact .inr (.inr (.inl ⟨rfl, rfl, rfl⟩))

/-! ### step -/

theorem step_nil (s : State) (h : s.inputs = []) : step s = .next s := by simp [step, takeNext, h]

theorem step_idle (s : State) (rest : List Transfer) (h : s.inputs = .idle :: rest) :
    step s = .next { s with inputs := rest } := by simp [step, takeNext, h, takeTransfer]

theorem step_byte (s : State) (b : Byte) (rest : List Transfer) (h : s.inputs = .byte b :: rest) :
    step s = acceptByte b { s with inputs := rest } := by simp [step, takeNext, h, takeTransfer]

theorem step_reset (s : State) (offered : Option Byte) (rest : List Transfer) (h : s.inputs = .reset offered :: rest) :
    step s = .next ({ s with inputs := rest } : State).applyReset := by
  simp [step, takeNext, h, takeTransfer, exec, execReset]

theorem step_cut (s : State) (b : Byte) (rest : List Transfer) (h : s.inputs = .byteCut b :: rest) :
    step s = acceptByteCut b { s with inputs := rest } := by simp [step, takeNext, h, takeTransfer]

theorem acceptByteCut_of_next {s whole : State} {b : Byte} (h : acceptByte b s = .next whole) :
    acceptByteCut b s = .next (s.cutTrace whole).applyReset := by
  simp [acceptByteCut, h, exec, execReset]

/-- What a step can do. -/
theorem step_cases {s t : State} (h : step s = .next t) :
    (s.inputs = [] ∧ t = s) ∨
    (∃ rest, s.inputs = .idle :: rest ∧ t = { s with inputs := rest }) ∨
    (∃ b rest, s.inputs = .byte b :: rest ∧ acceptByte b { s with inputs := rest } = .next t) ∨
    (∃ offered rest, s.inputs = .reset offered :: rest ∧ t = ({ s with inputs := rest } : State).applyReset) ∨
    (∃ b rest whole, s.inputs = .byteCut b :: rest ∧ acceptByte b { s with inputs := rest } = .next whole ∧
      t = (({ s with inputs := rest } : State).cutTrace whole).applyReset) := by
  rcases hi : s.inputs with _ | ⟨u, rest⟩
  · rw [step_nil s hi] at h
    cases h
    exact .inl ⟨rfl, rfl⟩
  · cases u with
    | idle =>
      rw [step_idle s rest hi] at h
      cases h
      exact .inr (.inl ⟨rest, rfl, rfl⟩)
    | byte b =>
      rw [step_byte s b rest hi] at h
      exact .inr (.inr (.inl ⟨b, rest, rfl, h⟩))
    | reset o =>
      rw [step_reset s o rest hi] at h
      cases h
      exact .inr (.inr (.inr (.inl ⟨o, rest, rfl, rfl⟩)))
    | byteCut b =>
      rw [step_cut s b rest hi] at h
      cases hw : acceptByte b { s with inputs := rest } with
      | next whole =>
        rw [acceptByteCut_of_next hw] at h
        cases h
        exact .inr (.inr (.inr (.inr ⟨b, rest, whole, rfl, hw, rfl⟩)))
      | fault r => simp [acceptByteCut, hw] at h
      | refused r => simp [acceptByteCut, hw] at h

end Sys2Proof.Machine
end

