-- ==== Sys2Proof/Laws/Conditions.lean ====
section
/-! SUPPORT. The conditions met by the step of a byte, class by class. -/

namespace Sys2Proof.Machine

theorem mem_overflow (s : State) (c : Condition) :
    c ∈ s.overflow ↔ c = .dropOverflow ∧ s.cfg.capacity - 1 ≤ s.writeCursor.toNat := by
  rw [maxPayload_eq]
  unfold State.overflow
  split
  · rename_i h
    have := (cursor_lt_iff s).mp h
    simp only [List.not_mem_nil, false_iff, not_and]
    omega
  · rename_i h
    have := mt (cursor_lt_iff s).mpr h
    simp only [List.mem_singleton, iff_self_and]
    omega

theorem mem_noSink (s : State) (c : Condition) : c ∈ s.noSink ↔ c = .sinkAbsent ∧ s.cfg.sinkPresent = false := by
  unfold State.noSink
  split <;> simp_all

theorem byteConditions_start (s : State) (h : s.frameOpen = false) : byteConditions s markStart = [] := by
  simp [byteConditions, State.classify, decodeRx, h, conditionsOf, State.returned]

theorem byteConditions_idle (s : State) (b : Byte) (h : s.frameOpen = false) (hb : b ≠ markStart) :
    byteConditions s b = [.ignIdle] := by
  simp [byteConditions, State.classify, decodeRx, h, hb, conditionsOf, State.returned]

theorem byteConditions_escaped (s : State) (b : Byte) (h : s.frameOpen = true) (he : s.escapePending = true) :
    byteConditions s b = s.overflow := by
  simp [byteConditions, State.classify, decodeRx, h, he, conditionsOf, State.returned]

theorem byteConditions_escape (s : State) (h : s.frameOpen = true) (he : s.escapePending = false) :
    byteConditions s markEscape = [] := by
  simp [byteConditions, State.classify, decodeRx, h, he, conditionsOf, State.returned]

theorem byteConditions_data (s : State) (b : Byte) (h : s.frameOpen = true) (he : s.escapePending = false)
    (h1 : b ≠ markEscape) (h2 : b ≠ markEnd) : byteConditions s b = s.overflow := by
  simp [byteConditions, State.classify, decodeRx, h, he, h1, h2, conditionsOf, State.returned]

/-- An END meets the conditions of the payload it delivers, none where it delivers none. -/
theorem byteConditions_end (s : State) (h : s.frameOpen = true) (he : s.escapePending = false) :
    byteConditions s markEnd =
      match s.payload with
      | some p => conditionsOf s (decodePayload s.cfg.setLenPolicy p)
      | none => [] := by
  have hm : markEnd ≠ markEscape := by decide
  cases hp : s.payload <;> simp [byteConditions, State.classify, decodeRx, h, he, hm, conditionsOf, State.returned, hp]

end Sys2Proof.Machine
end

