-- ==== Sys2Proof/Laws/Endpoints.lean ====
section
/-! SUPPORT. What the reset of all endpoints and the step of one can do, said once each. -/

namespace Sys2Proof.Machine

/-- No step changes the number of its instance. -/
theorem step_endpoint {s t : State} (h : step s = .next t) : t.endpoint = s.endpoint := by
  rcases step_cases h with ⟨-, rfl⟩ | ⟨rest, -, rfl⟩ | ⟨b, rest, -, ha⟩ | ⟨o, rest, -, rfl⟩ | ⟨b, rest, w, -, -, rfl⟩
  · rfl
  · rfl
  · rcases acceptByte_cases ha with ⟨-, -, rfl⟩ | ⟨-, -, rfl⟩ | ⟨-, -, rfl⟩ | ⟨-, -, -, rfl⟩ |
      ⟨-, -, -, p, -, hd⟩ | ⟨-, -, -, -, rfl⟩
    · rfl
    · rfl
    · simp
    · rfl
    · exact (dispatchPayload_frame hd).2.2.2.2.2.2.2
    · simp
  · rfl
  · rfl

/-- A step whose transfer asserts `rst` leaves the state of reset, whatever the step before it had presented. -/
theorem step_resetNext {s t : State} (hr : s.resetNext = true) (h : step s = .next t) :
    ∃ u : State, t = u.applyReset ∧ u.cfg = s.cfg ∧ u.endpoint = s.endpoint ∧ u.inputs = s.inputs.tail := by
  rcases step_cases h with ⟨hi, -⟩ | ⟨rest, hi, -⟩ | ⟨b, rest, hi, -⟩ | ⟨o, rest, hi, rfl⟩ | ⟨b, rest, w, hi, -, rfl⟩
  · simp [State.resetNext, hi] at hr
  · simp [State.resetNext, hi] at hr
  · simp [State.resetNext, hi] at hr
  · exact ⟨_, rfl, rfl, rfl, by simp [hi]⟩
  · exact ⟨_, rfl, rfl, rfl, by simp [hi]⟩

/-- What the common reset does to one instance. -/
theorem takeJointReset_cases {s t : State} (h : takeJointReset s = .next t) :
    (s.resetNext = true ∧ step s = .next t) ∨ (s.resetNext = false ∧ t = s.applyReset) := by
  unfold takeJointReset at h
  split at h
  · exact .inl ⟨‹_›, h⟩
  · rename_i hr
    cases h
    exact .inr ⟨by simpa using hr, rfl⟩

/-- The reset of all is the reset of each. -/
theorem resetTogether_forall₂ {es es' : Endpoints} (h : resetTogether es = .next es') :
    List.Forall₂ (fun s t => takeJointReset s = .next t) es es' := by
  induction es generalizing es' with
  | nil => cases h; exact .nil
  | cons s es ih =>
    simp only [resetTogether] at h
    split at h
    · split at h
      · cases h
        exact .cons ‹_› (ih ‹_›)
      · cases h
      · cases h
    · cases h
    · cases h

/-- The reset of all completes where the reset of each does. -/
theorem resetTogether_completes {es : Endpoints} (h : ∀ s ∈ es, ∃ t, takeJointReset s = .next t) :
    ∃ es', resetTogether es = .next es' := by
  induction es with
  | nil => exact ⟨[], rfl⟩
  | cons s es ih =>
    obtain ⟨t, ht⟩ := h s (by simp)
    obtain ⟨ts, hts⟩ := ih fun u hu => h u (by simp [hu])
    exact ⟨t :: ts, by simp [resetTogether, ht, hts]⟩

/-- What the step of one endpoint can do: nothing, the reset of all, or a step of its own. -/
theorem stepEndpoint_cases {es es' : Endpoints} {k : Nat} (h : stepEndpoint es k = .next es') :
    (es[k]? = none ∧ es' = es) ∨
    (∃ s, es[k]? = some s ∧ s.resetNext = true ∧ resetTogether es = .next es') ∨
    (∃ s t, es[k]? = some s ∧ s.resetNext = false ∧ step s = .next t ∧ es' = es.set k t) := by
  unfold stepEndpoint at h
  split at h
  · cases h
    exact .inl ⟨‹_›, rfl⟩
  · rename_i s hs
    split at h
    · exact .inr (.inl ⟨s, hs, ‹_›, h⟩)
    · rename_i hr
      split at h
      · cases h
        exact .inr (.inr ⟨s, _, hs, by simpa using hr, ‹_›, rfl⟩)
      · cases h
      · cases h

end Sys2Proof.Machine
end

