-- ==== Sys2Proof/Laws/PerInstr.lean ====
section
/-! SUPPORT. Per instruction: the encoding of a well-formed instruction meets the match and mask that
spec/opcode_table.json gives its row (spec/30_encoding.md R76). -/

namespace Sys2Proof.Laws.EncodedRow

/-- The encoder and the table agree on this instruction. -/
def Statement (i : Instr) : Prop :=
  ∀ cfg : Config, i.wellFormed cfg = true → i.tableRow.accepts (encode i).key = true

/-- A payload of two bytes or more is matched on its first two. -/
theorem key_req (m o : Byte) (args : List Byte) : (Encoding.req (m :: o :: args)).key = m.toNat * 256 + o.toNat := by
  simp [Encoding.key, bytesToNat]

/-- A byte offered while no frame is open: only bit 9 is looked at. -/
theorem accepts_idle : ∀ b : Byte, TableRow.accepts ⟨0x000, 0x200⟩ (rxKey false false b).toNat = true := by
  decide +kernel

theorem accepts_escaped : ∀ b : Byte, TableRow.accepts ⟨0x300, 0x300⟩ (rxKey true true b).toNat = true := by
  decide +kernel

theorem accepts_data : ∀ b : Byte, TableRow.accepts ⟨0x200, 0x300⟩ (rxKey true false b).toNat = true := by
  decide +kernel

theorem accepts_opcode : ∀ o : Byte, TableRow.accepts ⟨0x0000, 0xFF00⟩ (0 * 256 + o.toNat) = true := by
  decide +kernel

theorem rxIdleStart : Statement .rxIdleStart := fun _ _ => by decide

theorem rxIdleIgnore (b : Byte) : Statement (.rxIdleIgnore b) := fun _ _ => accepts_idle b

theorem rxEscapedLiteral (b : Byte) : Statement (.rxEscapedLiteral b) := fun _ _ => accepts_escaped b

theorem rxEscape : Statement .rxEscape := fun _ _ => by decide

theorem rxEnd : Statement .rxEnd := fun _ _ => by decide

theorem rxData (b : Byte) : Statement (.rxData b) := fun _ _ => accepts_data b

theorem dispatchShort (p : List Byte) : Statement (.dispatchShort p) := fun _ _ => by
  simp [Instr.tableRow, TableRow.accepts]

theorem dispatchNotRequest (m o : Byte) (args : List Byte) : Statement (.dispatchNotRequest m o args) := fun _ _ => by
  simp [Instr.tableRow, TableRow.accepts]

theorem setLedColor (r g b : Byte) (extra : List Byte) : Statement (.setLedColor r g b extra) := fun _ _ => by
  rw [encode, key_req]
  simp [Instr.tableRow, TableRow.accepts]

theorem setLedColorBadlen (args : List Byte) : Statement (.setLedColorBadlen args) := fun _ _ => by
  rw [encode, key_req]
  simp [Instr.tableRow, TableRow.accepts]

theorem getLedColor (args : List Byte) : Statement (.getLedColor args) := fun _ _ => by
  rw [encode, key_req]
  simp [Instr.tableRow, TableRow.accepts]

theorem dispatchUnknownOpcode (o : Byte) (args : List Byte) : Statement (.dispatchUnknownOpcode o args) :=
  fun _ _ => by
    rw [encode, key_req]
    exact accepts_opcode o

theorem respAck : Statement .respAck := fun _ _ => by decide

/-- The wildcard bits of RESP_COLOR are the three bytes between the tag and END. -/
theorem respColor (r g b : Byte) : Statement (.respColor r g b) := fun _ _ => by
  have hr := r.isLt
  have hg := g.isLt
  have hb := b.isLt
  have hk : (encode (.respColor r g b)).key =
      0xFF01 * 2 ^ 32 + (r.toNat * 65536 + g.toNat * 256 + b.toNat) * 2 ^ 8 + 0xFE := by
    simp only [encode, Encoding.key, bytesToNat, List.foldl]
    simp
    omega
  generalize (encode (.respColor r g b)).key = n at hk
  have hmask : (0xFFFF000000FF : Nat) = (0xFFFF <<< 32) ||| 0xFF := by decide
  have hlow : n &&& 0xFF = 0xFE := by
    rw [show (0xFF : Nat) = 2 ^ 8 - 1 from rfl, Nat.and_two_pow_sub_one_eq_mod]
    omega
  have hhigh : n &&& (0xFFFF <<< 32) = 0xFF01 <<< 32 := by
    have hs : n >>> 32 = 0xFF01 := by
      rw [Nat.shiftRight_eq_div_pow]
      omega
    apply Nat.eq_of_testBit_eq
    intro i
    rw [Nat.testBit_and, Nat.testBit_shiftLeft, Nat.testBit_shiftLeft]
    by_cases hi : 32 ≤ i
    · have hn : n.testBit i = (0xFF01 : Nat).testBit (i - 32) := by
        rw [← hs, Nat.testBit_shiftRight]
        congr 1
        omega
      rw [hn]
      simp only [hi, decide_true, Bool.true_and, ← Nat.testBit_and]
      rfl
    · simp [hi]
  simp only [Instr.tableRow, TableRow.accepts, hmask, Nat.and_or_distrib_left, hlow, hhigh]
  decide

theorem reset : Statement .reset := fun _ _ => by decide

end Sys2Proof.Laws.EncodedRow
end

