-- ==== Sys2Proof/Laws/Run.lean ====
section
/-! SUPPORT. A run over accepted bytes, one byte at a time. -/

namespace Sys2Proof.Machine

/-- `s` with other offers of the host to come. -/
def State.withInputs (s : State) (l : List Transfer) : State := { s with inputs := l }

theorem State.append_withInputs (s : State) (b : Byte) (l : List Transfer) :
    (s.withInputs l).append b = (s.append b).withInputs l := by
  by_cases h : s.writeCursor < s.cfg.headroomIndex <;>
  · simp only [State.append, State.withInputs, h]
    rfl

theorem dispatchPayload_withInputs {p : List Byte} {s t : State} (l : List Transfer)
    (h : dispatchPayload p s = .next t) : dispatchPayload p (s.withInputs l) = .next (t.withInputs l) := by
  rcases dispatchPayload_cases s.cfg.setLenPolicy p with hc | ⟨r, g, b, x, -, -, hc⟩ | ⟨a, -, hc⟩ <;>
  · rw [hc s rfl] at h
    cases h
    exact hc (s.withInputs l) rfl

theorem acceptByte_withInputs {s t : State} {b : Byte} (l : List Transfer) (h : acceptByte b s = .next t) :
    acceptByte b (s.withInputs l) = .next (t.withInputs l) := by
  rcases acceptByte_cases h with ⟨ho, rfl, rfl⟩ | ⟨ho, hb, rfl⟩ | ⟨ho, he, rfl⟩ | ⟨ho, he, rfl, rfl⟩ |
    ⟨ho, he, rfl, p, hp, hd⟩ | ⟨ho, he, h1, h2, rfl⟩
  · exact acceptByte_idle_start (s.withInputs l) ho
  · exact acceptByte_idle_ignore _ b ho hb
  · rw [acceptByte_escaped (s.withInputs l) b ho he]
    exact congrArg _ (State.append_withInputs s.clearEscape b l)
  · exact acceptByte_escape (s.withInputs l) ho he
  · rw [acceptByte_end (s.withInputs l) p ho he hp]
    exact dispatchPayload_withInputs l hd
  · rw [acceptByte_data (s.withInputs l) b ho he h1 h2]
    exact congrArg _ (State.append_withInputs s b l)

theorem dispatchPayload_keeps_inputs {p : List Byte} {s t : State} (h : dispatchPayload p s = .next t) :
    t.inputs = s.inputs := by
  rcases dispatchPayload_cases s.cfg.setLenPolicy p with hc | ⟨r, g, b, x, -, -, hc⟩ | ⟨a, -, hc⟩ <;>
  · rw [hc s rfl] at h
    cases h
    rfl

theorem acceptByte_keeps_inputs {s t : State} {b : Byte} (h : acceptByte b s = .next t) : t.inputs = s.inputs := by
  have hi : ∀ (u : State), (u.append b).inputs = u.inputs := fun u => by
    unfold State.append
    split <;> rfl
  rcases acceptByte_cases h with ⟨ho, rfl, rfl⟩ | ⟨ho, hb, rfl⟩ | ⟨ho, he, rfl⟩ | ⟨ho, he, rfl, rfl⟩ |
    ⟨ho, he, rfl, p, hp, hd⟩ | ⟨ho, he, h1, h2, rfl⟩
  · rfl
  · rfl
  · rw [hi]
    rfl
  · rfl
  · rw [dispatchPayload_keeps_inputs hd]
    rfl
  · exact hi s

theorem acceptByte_withInputs_fault {s : State} {b : Byte} (l : List Transfer) (h : ∀ t, acceptByte b s ≠ .next t) :
    acceptByte b s = .fault .bufferIndexOutOfRange ∧
      acceptByte b (s.withInputs l) = .fault .bufferIndexOutOfRange := by
  obtain ⟨ho, he, rfl, hp⟩ := acceptByte_stops h
  exact ⟨acceptByte_end_fault s ho he hp, acceptByte_end_fault (s.withInputs l) ho he hp⟩

theorem core_run_succ (M : Host.Core) (k : Nat) (s : M.State) :
    M.run (k + 1) s =
      match M.step s with
      | .next t => M.run k t
      | .fault r => .fault r
      | .refused r => .refused r := by
  cases h : M.step s <;> simp only [Host.Core.run, h]

theorem runBytes_nil (s : State) : runBytes s [] = .next s := rfl

theorem runBytes_step (s : State) (b : Byte) (bs : List Byte) :
    runBytes s (b :: bs) =
      match acceptByte b (s.withInputs (bs.map .byte ++ s.inputs)) with
      | .next t => Host.Core.run Sys2Proof.core bs.length t
      | .fault r => .fault r
      | .refused r => .refused r := by
  have hs : step (s.fed (b :: bs)) = acceptByte b (s.withInputs (bs.map .byte ++ s.inputs)) :=
    step_byte _ b _ rfl
  have hr := core_run_succ Sys2Proof.core bs.length (s.fed (b :: bs))
  rw [show Sys2Proof.core.step (s.fed (b :: bs)) = step (s.fed (b :: bs)) from rfl, hs] at hr
  unfold runBytes
  rw [List.length_cons, hr]
  cases acceptByte b (s.withInputs (bs.map .byte ++ s.inputs)) <;> rfl

/-- A run takes its first byte, then runs on. -/
theorem runBytes_cons {s t : State} {b : Byte} (bs : List Byte) (h : acceptByte b s = .next t) :
    runBytes s (b :: bs) = runBytes t bs := by
  rw [runBytes_step, acceptByte_withInputs _ h, ← acceptByte_keeps_inputs h]
  rfl

theorem runBytes_append {s t : State} (as bs : List Byte) (h : runBytes s as = .next t) :
    runBytes s (as ++ bs) = runBytes t bs := by
  induction as generalizing s with
  | nil =>
    rw [runBytes_nil] at h
    cases h
    rfl
  | cons a rest ih =>
    by_cases ha : ∃ u, acceptByte a s = .next u
    · obtain ⟨u, ha⟩ := ha
      rw [runBytes_cons rest ha] at h
      rw [List.cons_append, runBytes_cons _ ha, ih h]
    · rw [runBytes_step, (acceptByte_withInputs_fault _ fun u hu => ha ⟨u, hu⟩).2] at h
      cases h

end Sys2Proof.Machine
end

