-- ==== Sys2Proof/Tests/Slice0.lean ====
section
/-! SUPPORT. The model's own tests: expected results from spec/30_encoding.md and the vectors of spec/95_test_vectors.md,
ill-formed terms that WellFormed refuses, and for every statement with hypotheses a state that meets them. -/

namespace Sys2Proof.Tests

open Sys2Proof Sys2Proof.Machine

/-! ## Small states -/

/-- CAPACITY 32, a sink, `EXACT` (95_test_vectors.md: "unless a vector says otherwise"). -/
def cfgExact : Config := ⟨31, true, .exact⟩
/-- The same, `AT_LEAST`. -/
def cfgAtLeast : Config := ⟨31, true, .atLeast⟩
/-- No sink. -/
def cfgNoSink : Config := ⟨31, false, .exact⟩
/-- CAPACITY 1 (DV-D22). -/
def cfgTiny : Config := ⟨0, true, .exact⟩

/-- Bytes at indices from `i` on. -/
def cells : Nat → List Byte → List Host.Cell
  | _, [] => []
  | i, b :: rest => (i, b) :: cells (i + 1) rest

/-- `(frame_open, escape_pending, write_cursor)` with a buffer, colour (10, 20, 30). -/
def codec (cfg : Config) (fo ep : Bool) (n : BitVec 8) (buf : List Byte) : State :=
  ⟨cfg, fo, ep, n, cells 0 buf, 10, 20, 30, [], [], 0, 0⟩

/-- The next state, where there is one. -/
def next? : Host.Outcome State Fault Refusal → Option State
  | .next s => some s
  | .fault _ => none
  | .refused _ => none

/-- The decoder's position and cursor after an outcome. -/
def pos (o : Host.Outcome State Fault Refusal) : Option (Bool × Bool × BitVec 8) :=
  (next? o).map fun s => (s.frameOpen, s.escapePending, s.writeCursor)

/-- The trace after an outcome. -/
def trace (o : Host.Outcome State Fault Refusal) : Option (List Event) := (next? o).map State.trace

/-- The colour after an outcome. -/
def colour (o : Host.Outcome State Fault Refusal) : Option (Byte × Byte × Byte) :=
  (next? o).map fun s => (s.colorR, s.colorG, s.colorB)

/-- `Emit` of each byte. -/
def emits (bs : List Byte) : List Event := bs.map .emit

/-! ## Decoding: words written out from the spec -/

/-- R62, R76: frame_open 0, escape_pending 0, byte 1111_1111. -/
theorem test_decode_rxIdleStart : decode cfgExact (.rx 0b00_1111_1111#10) = .instr .rxIdleStart := by decide
/-- The unreachable pair (0, 1) is of the same row ("`x` means either value"). -/
theorem test_decode_rxIdleStart_x : decode cfgExact (.rx 0b01_1111_1111#10) = .instr .rxIdleStart := by decide
theorem test_decode_rxIdleIgnore : decode cfgExact (.rx 0b00_1111_1110#10) = .instr (.rxIdleIgnore 0xFE) := by decide
theorem test_decode_rxEscapedLiteral :
    decode cfgExact (.rx 0b11_1111_1101#10) = .instr (.rxEscapedLiteral 0xFD) := by decide
theorem test_decode_rxEscape : decode cfgExact (.rx 0b10_1111_1101#10) = .instr .rxEscape := by decide
theorem test_decode_rxEnd : decode cfgExact (.rx 0b10_1111_1110#10) = .instr .rxEnd := by decide
/-- A START in an open frame is data (R114). -/
theorem test_decode_rxData : decode cfgExact (.rx 0b10_1111_1111#10) = .instr (.rxData 0xFF) := by decide
theorem test_decode_dispatchShort : decode cfgExact (.req [0x00]) = .instr (.dispatchShort [0x00]) := by decide
/-- DV-P4. -/
theorem test_decode_dispatchNotRequest :
    decode cfgExact (.req [0xFF, 0x00, 0x00, 0x01, 0x02]) = .instr (.dispatchNotRequest 0xFF 0x00 [0x00, 0x01, 0x02]) := by
  decide
/-- DV-P7. -/
theorem test_decode_setLedColor :
    decode cfgExact (.req [0x00, 0x00, 0x01, 0x02, 0x03]) = .instr (.setLedColor 0x01 0x02 0x03 []) := by decide
/-- DV-P9: the sixth byte is let through by `AT_LEAST`. -/
theorem test_decode_setLedColor_long :
    decode cfgAtLeast (.req [0x00, 0x00, 0x01, 0x02, 0x03, 0x04]) = .instr (.setLedColor 0x01 0x02 0x03 [0x04]) := by
  decide
/-- DV-P8: and refused a meaning by `EXACT`. -/
theorem test_decode_setLedColorBadlen :
    decode cfgExact (.req [0x00, 0x00, 0x01, 0x02, 0x03, 0x04]) =
      .instr (.setLedColorBadlen [0x01, 0x02, 0x03, 0x04]) := by decide
/-- DV-P6. -/
theorem test_decode_setLedColorBadlen_short :
    decode cfgExact (.req [0x00, 0x00, 0x01, 0x02]) = .instr (.setLedColorBadlen [0x01, 0x02]) := by decide
/-- DV-P13. -/
theorem test_decode_getLedColor : decode cfgExact (.req [0x00, 0x01, 0x99]) = .instr (.getLedColor [0x99]) := by decide
/-- DV-P14. -/
theorem test_decode_dispatchUnknownOpcode :
    decode cfgExact (.req [0x00, 0x02]) = .instr (.dispatchUnknownOpcode 0x02 []) := by decide
/-- W11. -/
theorem test_decode_respAck : decode cfgExact (.resp [0xFF, 0x01, 0x01, 0xFE]) = .instr .respAck := by decide
/-- W11, with marker values unescaped (DV-E3). -/
theorem test_decode_respColor :
    decode cfgExact (.resp [0xFF, 0x01, 0xFF, 0xFE, 0xFD, 0xFE]) = .instr (.respColor 0xFF 0xFE 0xFD) := by decide
theorem test_decode_reset : decode cfgExact (.ctrl true) = .instr .reset := by decide
theorem test_decode_rejects_other_response :
    decode cfgExact (.resp [0xFF, 0x01, 0x02, 0xFE]) = .rejected .notAResponse := by decide
theorem test_decode_rejects_long_payload : decode cfgTiny (.req [0x00]) = .rejected .payloadTooLong := by decide
theorem test_decode_rejects_no_reset : decode cfgExact (.ctrl false) = .rejected .resetNotAsserted := by decide

/-! ## Words numbered as the table numbers them, placed and run as the first step -/

theorem test_word_rxEscape : decodeTableWord 16 0x2FD = some .rxEscape := by decide
theorem test_word_getLedColor : decodeTableWord 16 0x0001 = some (.getLedColor []) := by decide
theorem test_word_setLedColor : decodeTableWord 16 0x0000 = some (.setLedColor 0 0 0 []) := rfl
theorem test_word_respAck : decodeTableWord 32 0xFF0101FE = some .respAck := by decide
theorem test_word_respColor : decodeTableWord 48 0xFF010A141EFE = some (.respColor 0x0A 0x14 0x1E) := by decide
theorem test_run_word_rxEscape : pos (step (State.reset.withFetchWord 16 0x2FD)) = some (true, true, 0) := by decide
/-- The word of GET runs RX_END, then GET: the colour after reset is reported (DV-P12). -/
theorem test_run_word_getLedColor :
    trace (step (State.reset.withFetchWord 16 0x0001)) =
      some (.frame [0x00, 0x01] :: emits [0xFF, 0x01, 0x00, 0x00, 0x00, 0xFE]) := by decide
theorem test_run_word_setLedColor :
    trace (step (State.reset.withFetchWord 16 0x0000)) =
      some (.frame [0x00, 0x00, 0x00, 0x00, 0x00] :: .apply 0 0 0 :: emits [0xFF, 0x01, 0x01, 0xFE]) := rfl
theorem test_run_word_respColor :
    trace (step (State.reset.withFetchWord 48 0xFF010A141EFE)) =
      some (.frame [0x00, 0x01] :: emits [0xFF, 0x01, 0x0A, 0x14, 0x1E, 0xFE]) := by decide

/-! ## WellFormed refuses ill-formed terms, one for each check -/

theorem test_ill_formed_rxIdleIgnore : (Instr.rxIdleIgnore 0xFF).wellFormed cfgExact = false := by decide
theorem test_ill_formed_rxData_escape : (Instr.rxData 0xFD).wellFormed cfgExact = false := by decide
theorem test_ill_formed_rxData_end : (Instr.rxData 0xFE).wellFormed cfgExact = false := by decide
theorem test_ill_formed_dispatchShort : (Instr.dispatchShort [0, 1]).wellFormed cfgExact = false := by decide
theorem test_ill_formed_dispatchShort_capacity : (Instr.dispatchShort [0]).wellFormed cfgTiny = false := by decide
theorem test_ill_formed_dispatchNotRequest : (Instr.dispatchNotRequest 0 1 []).wellFormed cfgExact = false := by decide
theorem test_ill_formed_dispatchNotRequest_capacity :
    (Instr.dispatchNotRequest 1 1 []).wellFormed cfgTiny = false := by decide
theorem test_ill_formed_setLedColor : (Instr.setLedColor 1 2 3 [4]).wellFormed cfgExact = false := by decide
theorem test_ill_formed_setLedColor_capacity : (Instr.setLedColor 1 2 3 []).wellFormed cfgTiny = false := by decide
theorem test_ill_formed_setLedColorBadlen : (Instr.setLedColorBadlen [1, 2, 3]).wellFormed cfgExact = false := by decide
theorem test_ill_formed_setLedColorBadlen_long :
    (Instr.setLedColorBadlen [1, 2, 3, 4]).wellFormed cfgAtLeast = false := by decide
theorem test_ill_formed_setLedColorBadlen_capacity :
    (Instr.setLedColorBadlen []).wellFormed cfgTiny = false := by decide
theorem test_ill_formed_getLedColor : (Instr.getLedColor []).wellFormed cfgTiny = false := by decide
theorem test_ill_formed_unknownOpcode_set : (Instr.dispatchUnknownOpcode 0 []).wellFormed cfgExact = false := by decide
theorem test_ill_formed_unknownOpcode_get : (Instr.dispatchUnknownOpcode 1 []).wellFormed cfgExact = false := by decide
theorem test_ill_formed_unknownOpcode_capacity :
    (Instr.dispatchUnknownOpcode 2 []).wellFormed cfgTiny = false := by decide

/-! ## Vectors of 95_test_vectors.md, one byte each -/

/-- DV-D4. -/
theorem test_rxIdleStart : pos (acceptByte 0xFF (codec cfgExact false false 0 [])) = some (true, false, 0) := by decide
/-- DV-D3: ESCAPE outside a frame does not arm. -/
theorem test_rxIdleIgnore : pos (acceptByte 0xFD (codec cfgExact false false 0 [])) = some (false, false, 0) := by decide
/-- DV-D10. -/
theorem test_rxEscapedLiteral :
    (next? (acceptByte 0xFF (codec cfgExact true true 0 []))).map State.frameBuffer = some [(0, 0xFF)] := by decide
/-- DV-D17: dropped at full, the escape cleared. -/
theorem test_rxEscapedLiteral_full :
    pos (acceptByte 0xFE (codec cfgExact true true 31 [])) = some (true, false, 31) := by decide
/-- DV-D16. -/
theorem test_rxEscape_full : pos (acceptByte 0xFD (codec cfgExact true false 31 [])) = some (true, true, 31) := by decide
/-- DV-S4: delivered and ignored. -/
theorem test_rxEnd : trace (acceptByte 0xFE (codec cfgExact true false 2 [0x07, 0x07])) = some [.frame [0x07, 0x07]] := by
  decide
/-- DV-D23: `CAPACITY = 1`. -/
theorem test_rxEnd_tiny : trace (acceptByte 0xFE (codec cfgTiny true false 0 [])) = some [.frame []] := by decide
/-- DV-D14. -/
theorem test_rxData_last : pos (acceptByte 0x41 (codec cfgExact true false 30 [])) = some (true, false, 31) := by decide
/-- DV-D19: 0xFF is data, dropped at full. -/
theorem test_rxData_full : pos (acceptByte 0xFF (codec cfgExact true false 31 [])) = some (true, false, 31) := by decide
/-- DV-P2. -/
theorem test_dispatchShort : trace (dispatchPayload [0x00] (codec cfgExact false false 0 [])) = some [] := by decide
/-- DV-P3: a response looped back. -/
theorem test_dispatchNotRequest : trace (dispatchPayload [0x01, 0x01] (codec cfgExact false false 0 [])) = some [] := by
  decide
/-- DV-P11. -/
theorem test_setLedColor :
    trace (dispatchPayload [0x00, 0x00, 0xFF, 0xFE, 0xFD] (codec cfgExact false false 0 [])) =
      some (.apply 0xFF 0xFE 0xFD :: emits [0xFF, 0x01, 0x01, 0xFE]) := by decide
/-- DV-P17: without a sink the colour is applied and kept. -/
theorem test_setLedColor_noSink :
    (next? (dispatchPayload [0x00, 0x00, 0x07, 0x08, 0x09] (codec cfgNoSink false false 0 []))).map
      (fun s => (s.trace, s.colorR, s.colorG, s.colorB)) = some ([.apply 7 8 9], 7, 8, 9) := by decide
/-- DV-P5. -/
theorem test_setLedColorBadlen :
    colour (dispatchPayload [0x00, 0x00] (codec cfgExact false false 0 [])) = some (10, 20, 30) := by decide
/-- DV-S2. -/
theorem test_getLedColor :
    trace (acceptByte 0xFE (codec cfgExact true false 2 [0x00, 0x01])) =
      some (.frame [0x00, 0x01] :: emits [0xFF, 0x01, 0x0A, 0x14, 0x1E, 0xFE]) := by decide
/-- DV-P16. -/
theorem test_getLedColor_noSink : trace (dispatchPayload [0x00, 0x01] (codec cfgNoSink false false 0 [])) = some [] := by
  decide
/-- DV-P15. -/
theorem test_dispatchUnknownOpcode :
    trace (dispatchPayload [0x00, 0xFF] (codec cfgExact false false 0 [])) = some [] := by decide
/-- DV-E1. -/
theorem test_respAck :
    trace (exec .respAck (codec cfgExact false false 0 [])) = some (emits [0xFF, 0x01, 0x01, 0xFE]) := by decide
/-- DV-E3: no escaping. -/
theorem test_respColor :
    trace (exec (.respColor 0xFF 0xFE 0xFD) (codec cfgExact false false 0 [])) =
      some (emits [0xFF, 0x01, 0xFF, 0xFE, 0xFD, 0xFE]) := by decide
/-- DV-R1: no event. -/
theorem test_reset :
    pos (exec .reset (codec cfgExact true true 7 [])) = some (false, false, 0) ∧
    colour (exec .reset (codec cfgExact true true 7 [])) = some (0, 0, 0) ∧
    trace (exec .reset (codec cfgExact true true 7 [])) = some [] := by decide
/-- R75: `REQ_GET` is `FF 00 01 FE`. -/
theorem test_requestGet : requestGet = [0xFF, 0x00, 0x01, 0xFE] := by decide
/-- P2: `REQ_SET(FF, FE, FD)`, stuffed. -/
theorem test_requestSet :
    requestSet 0xFF 0xFE 0xFD = [0xFF, 0x00, 0x00, 0xFD, 0xFF, 0xFD, 0xFE, 0xFD, 0xFD, 0xFE] := by decide
/-- R156: the ports of a step that applies and emits one byte. -/
theorem test_ports :
    portsOfTransfer false [.frame [], .apply 1 2 3, .emit 0xFF] (some (.byte 0xFE)) =
      [⟨true, none, none⟩, ⟨false, some (1, 2, 3), none⟩, ⟨false, none, some 0xFF⟩] := by decide
/-- Writing below an entry keeps the indices rising. -/
theorem test_memory_canonical : Memory.write [(1, 5), (3, 7)] 2 9 = [(1, 5), (2, 9), (3, 7)] := by decide

/-! ## Witnesses: states and operands that meet the statements' hypotheses -/

/-- An open frame of two bytes, a byte `b` offered next. -/
def offering (cfg : Config) (fo ep : Bool) (n : BitVec 8) (buf : List Byte) (b : Byte) : State :=
  { codec cfg fo ep n buf with inputs := [.byte b] }

/-- The invariant holds in an open frame with a full buffer of CAPACITY 3. -/
theorem witness_Inv_full : (codec ⟨2, true, .exact⟩ true false 2 [0x00, 0x01]).Inv where
  cursor_le := by decide
  escape_open := by decide
  closed_zero := by decide
  buffer_wf := by decide
  buffer_below := by decide
  written := by decide

/-- The invariant holds with a byte offered, in an open frame with a pending escape. -/
theorem witness_Inv_offering : (offering cfgExact true true 1 [0x41] 0xFE).Inv where
  cursor_le := by decide
  escape_open := by decide
  closed_zero := by decide
  buffer_wf := by decide
  buffer_below := by decide
  written := by decide

/-- In `IDLE` too. -/
theorem witness_Inv_idle : (offering cfgExact false false 0 [0x41] 0xFF).Inv where
  cursor_le := by decide
  escape_open := by decide
  closed_zero := by decide
  buffer_wf := by decide
  buffer_below := by decide
  written := by decide

/-- Another state alike: a stale byte beyond the cursor, another count of resets and another number. -/
def staleTwin : State := { offering cfgExact true true 1 [0x41, 0x99] 0xFE with draws := 7, endpoint := 3 }

theorem witness_Inv_staleTwin : staleTwin.Inv where
  cursor_le := by decide
  escape_open := by decide
  closed_zero := by decide
  buffer_wf := by decide
  buffer_below := by decide
  written := by decide

theorem witness_EncodingsFromTheSpecDecode : 5 ≤ Config.thisHardware.maxPayload := by decide
theorem witness_DecodeOfEncodeIsTheInstruction :
    (Instr.setLedColor 1 2 3 (List.replicate 26 0)).wellFormed cfgAtLeast = true := by decide
theorem witness_DecodedInstructionsEncodeBack : decode cfgExact (.rx 0x1FF#10) = .instr .rxIdleStart := by decide
theorem witness_InputByteClassesFollowTheDecodeTable :
    (0xFE#8).toNat ≤ 0xFE ∧ (0xFC#8).toNat ≤ 0xFC ∧ ¬ (0xFF#8).toNat ≤ 0xFE ∧ ¬ (0xFD#8).toNat ≤ 0xFC := by decide
theorem witness_IdleStartOpensAFrame : (codec cfgExact false false 0 []).frameOpen = false := by decide
theorem witness_IdleBytesChangeNothing :
    (codec cfgExact false false 0 []).frameOpen = false ∧ (0xFE#8).toNat ≤ 0xFE := by decide
theorem witness_EscapeIsArmed :
    (codec cfgExact true false 31 []).frameOpen = true ∧ (codec cfgExact true false 31 []).escapePending = false := by decide
/-- The last index with room, and the first without. -/
theorem witness_DataByteIsStoredOrDropped :
    (codec cfgExact true false 30 []).writeCursor.toNat < cfgExact.capacity - 1 ∧
    cfgExact.capacity - 1 ≤ (codec cfgExact true false 31 []).writeCursor.toNat ∧ (0xFC#8).toNat ≤ 0xFC := by decide
theorem witness_EscapedByteIsStoredVerbatimOrDropped :
    (codec cfgExact true true 30 []).escapePending = true ∧
    (codec cfgExact true true 30 []).writeCursor.toNat < cfgExact.capacity - 1 ∧
    cfgExact.capacity - 1 ≤ (codec cfgExact true true 31 []).writeCursor.toNat := by decide
/-- The longest payload. -/
theorem witness_EndClosesTheFrameAndReturnsThePayload :
    (codec cfgExact true false 31 []).writeCursor.toNat ≤ (codec cfgExact true false 31 []).cfg.capacity - 1 := by decide
theorem witness_EndOutsideTheBufferStops :
    (codec cfgExact true false 32 []).cfg.capacity - 1 < (codec cfgExact true false 32 []).writeCursor.toNat := by decide
theorem witness_FlagsAfterAByte :
    (offering cfgExact true true 1 [0x41] 0xFE).inputs = [.byte 0xFE] ∧
    (next? (step (offering cfgExact true true 1 [0x41] 0xFE))).isSome = true := by decide
theorem witness_FlagsAfterAByte_idle :
    (offering cfgExact false false 0 [0x41] 0xFF).inputs = [.byte 0xFF] ∧
    (next? (step (offering cfgExact false false 0 [0x41] 0xFF))).isSome = true := by decide
/-- For EscapedEndIsData, SecondEscapeIsDataAndThirdArms and, with the byte offered, StartInAnOpenFrameIsData: the last
cursor with room. -/
theorem witness_open_with_room :
    (offering cfgExact true false 30 [] 0xFF).frameOpen = true ∧
    (offering cfgExact true false 30 [] 0xFF).escapePending = false ∧
    (offering cfgExact true false 30 [] 0xFF).inputs = [.byte 0xFF] ∧
    (offering cfgExact true false 30 [] 0xFF).writeCursor.toNat <
      (offering cfgExact true false 30 [] 0xFF).cfg.capacity - 1 := by decide
/-- The same, the full buffer. -/
theorem witness_open_full :
    (offering cfgExact true false 31 [] 0xFF).frameOpen = true ∧
    (offering cfgExact true false 31 [] 0xFF).escapePending = false ∧
    (offering cfgExact true false 31 [] 0xFF).inputs = [.byte 0xFF] ∧
    (offering cfgExact true false 31 [] 0xFF).cfg.capacity - 1 ≤
      (offering cfgExact true false 31 [] 0xFF).writeCursor.toNat := by decide
/-- DV-D20, DV-D21. -/
theorem witness_UnreachableStateFollowsTheTestOrder :
    pos (step (offering cfgExact false true 0 [] 0x41)) = some (false, true, 0) ∧
    pos (step (offering cfgExact false true 0 [] 0xFF)) = some (true, true, 0) := by decide
theorem witness_IgnoredPayloadsHaveNoEffect :
    ([0x00] : List Byte).length < 2 ∧ (0x01#8 : Byte) ≠ 0x00 ∧ ([1, 2] : List Byte).length < 3 ∧
    3 < ([1, 2, 3, 4] : List Byte).length ∧ cfgExact.setLenPolicy = .exact ∧ 0x02 ≤ (0x02#8).toNat := by decide
theorem witness_SetAppliesStoresAndAcknowledges :
    (codec cfgAtLeast false false 0 []).cfg.setLenPolicy = .atLeast := by decide
theorem witness_ResetInsideAStepLeavesAPrefix :
    ({ codec cfgExact true false 2 [0x00, 0x01] with inputs := [.byteCut 0xFE] } : State).inputs = .byteCut 0xFE :: [] ∧
    (next? (step { codec cfgExact true false 2 [0x00, 0x01] with inputs := [.byte 0xFE] })).isSome = true := by decide
theorem witness_ResetWinsOverAnOfferedByte :
    ({ codec cfgExact true true 1 [0x41] with inputs := [.reset (some 0xFF), .byte 0xFF] } : State).inputs =
      .reset (some 0xFF) :: [.byte 0xFF] ∧
    hostHolds [.reset (some 0xFF), .byte 0xFF] = true := by decide
/-- A host that drops the byte it offered breaks its duty. -/
theorem test_hostHolds_breach :
    hostHolds [.reset (some 0xFF), .byte 0x41] = false ∧ hostHolds [.reset (some 0xFF)] = false := by decide
theorem witness_StepRunsTheDecodedInstruction :
    (offering cfgExact true false 1 [0x41] 0xFD).inputs = [.byte 0xFD] ∧
    decode cfgExact (.rx (rxKey true false 0xFD)) = .instr .rxEscape ∧ Instr.rxEscape ≠ .rxEnd := by decide
theorem witness_StepRunsTheDecodedInstruction_reset :
    ({ codec cfgExact true true 1 [0x41] with inputs := [.reset none] } : State).inputs = .reset none :: [] := by decide
theorem witness_StepOnEndDeliversThenDispatches :
    (offering cfgExact true false 2 [0x00, 0x01] 0xFE).inputs = [.byte 0xFE] ∧
    (offering cfgExact true false 2 [0x00, 0x01] 0xFE).writeCursor.toNat ≤ cfgExact.capacity - 1 := by decide
theorem witness_NothingHappensWithoutAByte :
    (codec cfgExact true true 1 [0x41]).inputs = [] ∧
    ({ codec cfgExact true true 1 [0x41] with inputs := [.idle] } : State).inputs = .idle :: [] := by decide
/-- For the statements about every step that answers a next state: a step with seven events. -/
theorem witness_step_answers :
    ((next? (step (offering cfgExact true false 2 [0x00, 0x01] 0xFE))).map fun t => t.trace.length) = some 7 := by decide
theorem witness_WithoutASinkNothingIsEmitted :
    (offering cfgNoSink true false 2 [0x00, 0x01] 0xFE).cfg.sinkPresent = false ∧
    trace (step (offering cfgNoSink true false 2 [0x00, 0x01] 0xFE)) = some [.frame [0x00, 0x01]] := by decide
theorem witness_PayloadsFitTheBuffer :
    trace (step (offering ⟨2, true, .exact⟩ true false 2 [0x07, 0x07] 0xFE)) = some [.frame [0x07, 0x07]] := by decide
/-- A SET, a reset and a step that leaves the colour. -/
theorem witness_ColourIsWrittenOnlyBySetOrReset :
    colour (step (offering cfgExact true false 5 [0x00, 0x00, 1, 2, 3] 0xFE)) = some (1, 2, 3) ∧
    colour (step { codec cfgExact true false 0 [] with inputs := [.reset none] }) = some (0, 0, 0) ∧
    colour (step (offering cfgExact true false 0 [] 0x41)) = some (10, 20, 30) := by decide
theorem witness_StaleBytesAreNotObservable :
    State.Alike (offering cfgExact true true 1 [0x41] 0xFE) staleTwin ∧
    (next? (step (offering cfgExact true true 1 [0x41] 0xFE))).isSome = true ∧
    (next? (step staleTwin)).isSome = true :=
  ⟨⟨rfl, rfl, rfl, rfl, rfl, rfl, rfl, rfl, rfl, by decide⟩, by decide, by decide⟩
/-- No reset inside a step is next in the state above. -/
theorem witness_StaleBytesAreNotObservable_head (b : Byte) :
    (offering cfgExact true true 1 [0x41] 0xFE).inputs.head? ≠ some (.byteCut b) := by
  simp [offering]
/-- The endpoints after an outcome. -/
def nextAll : Host.Outcome Endpoints Fault Refusal → Endpoints
  | .next es => es
  | .fault _ => []
  | .refused _ => []
theorem witness_EndpointsAreIndependent :
    (offering cfgExact false false 0 [] 0xFF).resetNext = false ∧
    (nextAll (stepEndpoint [codec cfgExact false false 0 [], offering cfgExact false false 0 [] 0xFF] 1)).map
      State.frameOpen = [false, true] := by decide
/-- D19: endpoint 1 is reset, and so is endpoint 0, which keeps the byte it is offered. -/
theorem witness_EndpointsAreResetTogether :
    let es := [offering cfgExact true true 1 [0x41] 0xFE,
      { codec cfgExact true false 0 [] with inputs := [.reset none] }]
    (nextAll (stepEndpoint es 1)).map State.position = [.idle, .idle] ∧
    (nextAll (stepEndpoint es 1)).map State.colorR = [0, 0] ∧
    (nextAll (stepEndpoint es 1)).map State.inputs = [[.byte 0xFE], []] := by decide
theorem witness_resetEndpoints : ([cfgExact, cfgTiny] : List Config)[1]? = some cfgTiny := by decide
/-- For EndpointStepsComplete. -/
theorem witness_EndpointStepsComplete :
    ∀ s ∈ [offering cfgExact true true 1 [0x41] 0xFE, offering cfgExact false false 0 [0x41] 0xFF], s.Inv := by
  intro s hs
  simp only [List.mem_cons, List.not_mem_nil, or_false] at hs
  rcases hs with rfl | rfl
  · exact witness_Inv_offering
  · exact witness_Inv_idle
/-- For PortsPresentEachEventOnceInOrder: a byte, a byte with a reset inside its step, a reset. -/
theorem witness_PortsPresentEachEventOnceInOrder :
    (next? (step (offering cfgNoSink true false 2 [0x00, 0x01] 0xFE))).isSome = true ∧
    (next? (step { codec cfgNoSink true false 2 [0x00, 0x01] with inputs := [.byteCut 0xFE] })).isSome = true ∧
    (next? (step { codec cfgNoSink true false 2 [0x00, 0x01] with inputs := [.reset (some 0xFE)] })).isSome = true := by
  refine ⟨by decide, rfl, rfl⟩
/-- For ConditionsExcludeEachOther: every condition is met somewhere (60_exceptions.md R171, Q1 to Q7 in order). -/
theorem witness_ConditionsExcludeEachOther :
    byteConditions (codec cfgExact false false 0 []) 0xFD = [.ignIdle] ∧
    byteConditions (codec cfgExact true true 31 []) 0xFE = [.dropOverflow] ∧
    byteConditions (codec cfgExact true false 1 [0x00]) 0xFE = [.ignShort] ∧
    byteConditions (codec cfgExact true false 2 [0x01, 0x01]) 0xFE = [.ignType] ∧
    byteConditions (codec cfgExact true false 2 [0x00, 0x02]) 0xFE = [.ignOpcode] ∧
    byteConditions (codec cfgExact true false 6 [0x00, 0x00, 1, 2, 3, 4]) 0xFE = [.ignSetLen] ∧
    byteConditions (codec cfgNoSink true false 2 [0x00, 0x01]) 0xFE = [.sinkAbsent] := by decide
theorem witness_AtRest : (codec cfgExact false false 0 [0x99]).AtRest := ⟨rfl, rfl, rfl⟩
theorem witness_CompliantFrameDeliversItsPayload :
    (List.replicate 31 (0xFE : Byte)).length ≤ (codec cfgExact false false 0 [0x99]).cfg.capacity - 1 := by decide
/-- W8: the same GET frame twice from `IDLE`. -/
theorem witness_RepeatedFramesAnswerAlike :
    trace (runBytes (codec cfgExact false false 0 []) (requestGet ++ requestGet)) =
      some (.frame [0x00, 0x01] :: emits [0xFF, 0x01, 0x0A, 0x14, 0x1E, 0xFE] ++
        (.frame [0x00, 0x01] :: emits [0xFF, 0x01, 0x0A, 0x14, 0x1E, 0xFE])) := by decide
theorem witness_SetThenGetReportsTheColour :
    6 ≤ (codec cfgExact false false 0 []).cfg.capacity ∧ (codec cfgExact false false 0 []).cfg.sinkPresent = true := by decide
/-- R115: the merged payload, where it fits and where it does not (CAPACITY 3). -/
theorem witness_LostEndMergesTwoFrames :
    trace (runBytes (codec cfgExact false false 0 []) (0xFF :: 0x00 :: requestGet)) =
      some [.frame [0x00, 0xFF, 0x00, 0x01]] ∧
    trace (runBytes (codec ⟨2, true, .exact⟩ false false 0 []) (0xFF :: 0x00 :: requestGet)) =
      some [.frame [0x00, 0xFF]] := by decide
theorem witness_BytesOutsideAFrameAreIgnored :
    (codec cfgExact false true 0 []).frameOpen = false ∧ (0xFF : Byte) ∉ ([0xFE, 0xFD, 0x00] : List Byte) := by decide
theorem witness_RepliesWithoutMarkersAreRecovered :
    isMarker 0x0A = false ∧ isMarker 0xFC = false ∧ 5 ≤ (codec cfgExact false false 0 []).cfg.capacity := by decide
theorem witness_ReplyWithEndAsRedIsMisframed : 2 ≤ (codec ⟨1, true, .exact⟩ false false 0 []).cfg.capacity := by decide

end Sys2Proof.Tests
end

/-! # The block's scope (spec/00_scope.md): the events of one step, the delivered payloads, the parameters -/

namespace Sys2Proof.Machine

/-! ### The events of a response frame -/

theorem responseEvents_length_le (s : State) (result : List Byte) :
    (responseEvents s result).length ≤ result.length + 3 := by
  unfold responseEvents
  split <;> simp [responseBytes]

theorem exists_emit_of_mem_responseEvents {s : State} {result : List Byte} {e : Event}
    (h : e ∈ responseEvents s result) : ∃ b, e = .emit b := by
  unfold responseEvents at h
  split at h
  · obtain ⟨b, -, rfl⟩ := List.mem_map.1 h
    exact ⟨b, rfl⟩
  · cases h

/-! ### The events after `Frame(p)` -/

/-- The three tails a step can show after `Frame(p)` (43_sequencer.md R154): no event, that of a SET, that of a GET. -/
inductive DispatchTail (s : State) : List Event → Prop where
  | silent : DispatchTail s []
  | set (r g b : Byte) : DispatchTail s (.apply r g b :: responseEvents s ackResult)
  | get (r g b : Byte) : DispatchTail s (responseEvents s (colorResult r g b))

/-- Is the event a call of `applyColor`? -/
def Event.isApply : Event → Bool
  | .apply _ _ _ => true
  | .frame _ => false
  | .emit _ => false

/-- Is the event a call of `emitByte`? -/
def Event.isEmit : Event → Bool
  | .apply _ _ _ => false
  | .frame _ => false
  | .emit _ => true

theorem filter_isApply_responseEvents (s : State) (result : List Byte) :
    (responseEvents s result).filter Event.isApply = [] := by
  refine List.filter_eq_nil_iff.2 fun e he => ?_
  obtain ⟨b, rfl⟩ := exists_emit_of_mem_responseEvents he
  simp [Event.isApply]

theorem DispatchTail.length_le {s : State} {tail : List Event} (h : DispatchTail s tail) : tail.length ≤ 6 := by
  cases h with
  | silent => simp
  | set r g b =>
    have hr : (responseEvents s ackResult).length ≤ 4 := responseEvents_length_le s ackResult
    simp only [List.length_cons]
    omega
  | get r g b => exact responseEvents_length_le s (colorResult r g b)

theorem DispatchTail.applies_le {s : State} {tail : List Event} (h : DispatchTail s tail) :
    (tail.filter Event.isApply).length ≤ 1 := by
  cases h with
  | silent => simp
  | set r g b =>
    rw [List.filter_cons_of_pos rfl, filter_isApply_responseEvents]
    simp
  | get r g b => simp [filter_isApply_responseEvents]

theorem DispatchTail.emits_le {s : State} {tail : List Event} (h : DispatchTail s tail) :
    (tail.filter Event.isEmit).length ≤ 6 :=
  (List.length_filter_le _ _).trans h.length_le

theorem DispatchTail.frame_notMem {s : State} {tail : List Event} (h : DispatchTail s tail) (p : List Byte) :
    .frame p ∉ tail := by
  have hr : ∀ result, .frame p ∉ responseEvents s result := fun result hp => by
    obtain ⟨b, hb⟩ := exists_emit_of_mem_responseEvents hp
    cases hb
  cases h with
  | silent => simp
  | set r g b => simp [hr]
  | get r g b => exact hr _

/-- The tail depends on the state through the parameters only (`SINK_PRESENT`). -/
theorem DispatchTail.of_cfg_eq {s u : State} {tail : List Event} (h : DispatchTail s tail) (hc : s.cfg = u.cfg) :
    DispatchTail u tail := by
  have hr : ∀ result, responseEvents s result = responseEvents u result := fun result => by
    rw [responseEvents, responseEvents, hc]
  cases h with
  | silent => exact .silent
  | set r g b => exact hr ackResult ▸ .set r g b
  | get r g b => exact hr (colorResult r g b) ▸ .get r g b

/-! ### The events a dispatch, a byte and a step append -/

theorem dispatchPayload_events {p : List Byte} {s t : State} (h : dispatchPayload p s = .next t) :
    ∃ tail, DispatchTail s tail ∧ t.trace = s.trace ++ tail := by
  rcases dispatchPayload_cases s.cfg.setLenPolicy p with hc | ⟨r, g, b, extra, -, -, hc⟩ | ⟨args, -, hc⟩
  all_goals
    rw [hc s rfl] at h
    cases h
  · exact ⟨[], .silent, by simp⟩
  · exact ⟨_, .set r g b, rfl⟩
  · exact ⟨_, .get s.colorR s.colorG s.colorB, rfl⟩

/-- A byte appends no event, or `Frame` of the payload and one of the three tails. -/
theorem acceptByte_events {s t : State} {b : Byte} (h : acceptByte b s = .next t) :
    t.trace = s.trace ∨
    ∃ p tail, s.payload = some p ∧ DispatchTail s tail ∧ t.trace = s.trace ++ .frame p :: tail := by
  rcases acceptByte_cases h with ⟨-, -, rfl⟩ | ⟨-, -, rfl⟩ | ⟨-, -, rfl⟩ | ⟨-, -, -, rfl⟩ |
    ⟨-, -, -, p, hp, hd⟩ | ⟨-, -, -, -, rfl⟩
  · exact .inl rfl
  · exact .inl rfl
  · exact .inl (by simp)
  · exact .inl rfl
  · obtain ⟨tail, ht, he⟩ := dispatchPayload_events hd
    exact .inr ⟨p, tail, hp, ht.of_cfg_eq rfl, by simp [he]⟩
  · exact .inl (by simp)

/-- A step appends no event, or the first events (all, unless a reset falls inside the step) of `Frame` of the payload and
one of the three tails. -/
theorem step_events {s t : State} (h : step s = .next t) :
    t.trace = s.trace ∨
    ∃ p tail es, s.payload = some p ∧ DispatchTail s tail ∧ es <+: .frame p :: tail ∧ t.trace = s.trace ++ es := by
  rcases step_cases h with ⟨-, rfl⟩ | ⟨rest, -, rfl⟩ | ⟨b, rest, -, ha⟩ | ⟨o, rest, -, rfl⟩ |
    ⟨b, rest, whole, -, ha, rfl⟩
  · exact .inl rfl
  · exact .inl rfl
  · rcases acceptByte_events ha with he | ⟨p, tail, hp, ht, he⟩
    · exact .inl he
    · exact .inr ⟨p, tail, _, hp, ht.of_cfg_eq rfl, List.prefix_rfl, he⟩
  · exact .inl rfl
  · rcases acceptByte_events ha with he | ⟨p, tail, hp, ht, he⟩
    · exact .inl (by simp [he])
    · exact .inr ⟨p, tail, (.frame p :: tail).take (Config.freeCut s.endpoint s.draws), hp, ht.of_cfg_eq rfl,
        List.take_prefix _ _, by simp [he]⟩

theorem stepEvents_of_trace_append {s t : State} {es : List Event} (h : t.trace = s.trace ++ es) :
    stepEvents s t = es := by
  simp [stepEvents, h]

/-! ### The parameters -/

theorem acceptByte_cfg {s t : State} {b : Byte} (h : acceptByte b s = .next t) : t.cfg = s.cfg := by
  rcases acceptByte_cases h with ⟨-, -, rfl⟩ | ⟨-, -, rfl⟩ | ⟨-, -, rfl⟩ | ⟨-, -, -, rfl⟩ |
    ⟨-, -, -, p, -, hd⟩ | ⟨-, -, -, -, rfl⟩
  · rfl
  · rfl
  · simp
  · rfl
  · obtain ⟨hcfg, -⟩ := dispatchPayload_frame hd
    exact hcfg
  · simp

theorem step_cfg {s t : State} (h : step s = .next t) : t.cfg = s.cfg := by
  rcases step_cases h with ⟨-, rfl⟩ | ⟨rest, -, rfl⟩ | ⟨b, rest, -, ha⟩ | ⟨o, rest, -, rfl⟩ | ⟨b, rest, w, -, -, rfl⟩
  · rfl
  · rfl
  · have hcfg := acceptByte_cfg ha
    exact hcfg
  · rfl
  · rfl

/-! ### The obligations -/

/-- Settles O34: what a step appends begins `Frame(p)` and a tail of R154, whose longest is the six bytes of a
colour reply. -/
theorem atMostSevenEventsAStep : Obligations.AtMostSevenEventsAStep := by
  intro s t h
  rcases step_events h with he | ⟨p, tail, es, -, ht, hes, he⟩
  · exact ⟨[], by simp [he], by simp, by simp, by simp⟩
  · exact ⟨es, he, hes.length_le.trans (Nat.succ_le_succ ht.length_le),
      (hes.sublist.filter Event.isApply).length_le.trans ht.applies_le,
      (hes.sublist.filter Event.isEmit).length_le.trans ht.emits_le⟩

/-- Settles O35: the one `Frame` of a step carries the payload read from the buffer. -/
theorem payloadsFitTheBuffer : Obligations.PayloadsFitTheBuffer := by
  intro s t p h hmem
  rw [maxPayload_eq]
  rcases step_events h with he | ⟨q, tail, es, hq, ht, hes, he⟩
  · simp [stepEvents, he] at hmem
  · rw [stepEvents_of_trace_append he] at hmem
    rcases List.mem_cons.1 (hes.subset hmem) with hpq | hp
    · cases hpq
      exact State.payload_length_le hq
    · exact absurd hp (ht.frame_notMem p)

/-- Settles O38. -/
theorem configurationNeverChanges : Obligations.ConfigurationNeverChanges := fun _ _ h => step_cfg h

/-- Settles O15: `MemRead(0, write_cursor)` is undefined there. -/
theorem endOutsideTheBufferStops : Obligations.EndOutsideTheBufferStops := by
  intro s h
  have hp : s.payload = none := s.payload_eq_none (by rwa [maxPayload_eq] at h)
  simp [exec, execRxEnd, hp]

end Sys2Proof.Machine

/-! # The state (spec/10_state.md): its invariant, its flags, cursor and colour, and the bytes no event shows -/

namespace Sys2Proof.Machine

/-! ### The cursor and the buffer after `append` -/

theorem State.append_frameBuffer_of_lt (s : State) (b : Byte) (h : s.writeCursor.toNat < s.cfg.maxPayload) :
    (s.append b).frameBuffer = Memory.write s.frameBuffer s.writeCursor.toNat b := by
  rw [State.append_of_lt s b h]

theorem State.append_cursor_of_lt (s : State) (b : Byte) (h : s.writeCursor.toNat < s.cfg.maxPayload) :
    (s.append b).writeCursor.toNat = s.writeCursor.toNat + 1 := by
  rw [State.append_of_lt s b h]
  exact cursor_succ s h

/-- `append` leaves the cursor, or takes it up by 1 below `CAPACITY - 1` (10_state.md R22). -/
theorem State.append_cursor_cases (s : State) (b : Byte) :
    (s.append b).writeCursor = s.writeCursor ∨
    s.writeCursor.toNat < s.cfg.maxPayload ∧ (s.append b).writeCursor.toNat = s.writeCursor.toNat + 1 := by
  by_cases h : s.writeCursor.toNat < s.cfg.maxPayload
  · exact .inr ⟨h, s.append_cursor_of_lt b h⟩
  · exact .inl (by rw [s.append_of_le b (by omega)])

/-! ### Each operation of the decoder keeps the invariant -/

/-- The invariant reads the parameters, the flags, the cursor and the buffer only. -/
theorem State.Inv.of_eq {s t : State} (hi : s.Inv) (hc : t.cfg = s.cfg) (ho : t.frameOpen = s.frameOpen)
    (he : t.escapePending = s.escapePending) (hw : t.writeCursor = s.writeCursor)
    (hb : t.frameBuffer = s.frameBuffer) : t.Inv := by
  obtain ⟨h1, h2, h3, h4, h5, h6⟩ := hi
  constructor <;> simpa only [hc, ho, he, hw, hb]

theorem State.Inv.withInputs {s : State} (hi : s.Inv) (l : List Transfer) : (s.withInputs l).Inv :=
  hi.of_eq rfl rfl rfl rfl rfl

theorem State.Inv.openFrame {s : State} (hi : s.Inv) : s.openFrame.Inv :=
  { hi with
    escape_open := fun _ => rfl
    closed_zero := fun h => by cases h }

theorem State.Inv.armEscape {s : State} (hi : s.Inv) (ho : s.frameOpen = true) : s.armEscape.Inv :=
  { hi with escape_open := fun _ => ho }

theorem State.Inv.clearEscape {s : State} (hi : s.Inv) : s.clearEscape.Inv :=
  { hi with escape_open := fun h => by cases h }

/-- R30 (b) is why an END may close the frame only without a pending escape. -/
theorem State.Inv.closeFrame {s : State} (hi : s.Inv) (he : s.escapePending = false) : s.closeFrame.Inv :=
  { hi with
    cursor_le := by simp [BitVec.le_def]
    escape_open := fun h => by simp [he] at h
    closed_zero := fun _ => rfl
    written := fun i h => by simp at h }

/-- `append` writes the index of the cursor, below the headroom index, before it counts that index as written. -/
theorem State.Inv.append {s : State} (hi : s.Inv) (ho : s.frameOpen = true) (b : Byte) : (s.append b).Inv := by
  by_cases hlt : s.writeCursor.toNat < s.cfg.maxPayload
  · have hcur := s.append_cursor_of_lt b hlt
    have hbuf := s.append_frameBuffer_of_lt b hlt
    exact {
      cursor_le := by
        rw [BitVec.le_def, hcur, State.append_cfg]
        exact hlt
      escape_open := fun _ => by rwa [State.append_frameOpen]
      closed_zero := fun h => by simp [ho] at h
      buffer_wf := hbuf ▸ Memory.wf_write _ _ _ hi.buffer_wf
      buffer_below := fun c hc => by
        rw [State.append_cfg]
        rcases Memory.mem_write _ _ _ c (hbuf ▸ hc) with rfl | hc
        · exact hlt
        · exact hi.buffer_below c hc
      written := fun i h => by
        rw [hbuf, Memory.read_write]
        split
        · rfl
        · exact hi.written i (by omega) }
  · rwa [s.append_of_le b (by omega)]

theorem State.Inv.dispatchPayload {s t : State} {p : List Byte} (hi : s.Inv)
    (h : dispatchPayload p s = .next t) : t.Inv := by
  obtain ⟨hc, ho, he, hw, hb, -⟩ := dispatchPayload_frame h
  exact hi.of_eq hc ho he hw hb

/-- A reset reaches the invariant from every state. -/
theorem State.inv_applyReset (s : State) : s.applyReset.Inv where
  cursor_le := by simp [BitVec.le_def]
  escape_open := fun h => by cases h
  closed_zero := fun _ => rfl
  buffer_wf := Memory.wf_nil
  buffer_below := fun c h => by cases h
  written := fun i h => by simp at h

theorem State.Inv.acceptByte {s t : State} {b : Byte} (hi : s.Inv) (h : acceptByte b s = .next t) : t.Inv := by
  rcases acceptByte_cases h with ⟨-, -, rfl⟩ | ⟨-, -, rfl⟩ | ⟨ho, -, rfl⟩ | ⟨ho, -, -, rfl⟩ |
    ⟨-, he, -, p, -, hd⟩ | ⟨ho, -, -, -, rfl⟩
  · exact hi.openFrame
  · exact hi
  · exact hi.clearEscape.append ho b
  · exact hi.armEscape ho
  · have hdel : (s.closeFrame.deliver p).Inv := (hi.closeFrame he).of_eq rfl rfl rfl rfl rfl
    exact hdel.dispatchPayload hd
  · exact hi.append ho b

/-! ### What one byte does to the flags, the cursor and the colour -/

/-- R23, R24, in the test order of R102. Only a byte outside a frame needs the invariant: no escape is pending there. -/
theorem acceptByte_flags {s t : State} {b : Byte} (hi : s.Inv) (h : acceptByte b s = .next t) :
    (t.frameOpen = true ↔
      s.frameOpen = false ∧ b = markStart ∨ s.frameOpen = true ∧ (s.escapePending = true ∨ b ≠ markEnd)) ∧
    (t.escapePending = true ↔ s.frameOpen = true ∧ s.escapePending = false ∧ b = markEscape) := by
  have hclosed : s.frameOpen = false → s.escapePending = false := fun ho => by
    have := hi.escape_open
    simpa [ho] using this
  have hne : markEscape ≠ markEnd := by decide
  rcases acceptByte_cases h with ⟨ho, rfl, rfl⟩ | ⟨ho, hb, rfl⟩ | ⟨ho, he, rfl⟩ | ⟨ho, he, rfl, rfl⟩ |
    ⟨ho, he, rfl, p, -, hd⟩ | ⟨ho, he, h1, h2, rfl⟩
  · simp [ho, hclosed ho]
  · simp [ho, hb, hclosed ho]
  · simp [ho, he]
  · simp [ho, he, hne]
  · obtain ⟨-, hto, hte, -⟩ := dispatchPayload_frame hd
    simp [hto, hte, ho, he, hne.symm]
  · simp [ho, he, h1, h2]

/-- R22 for one byte. -/
theorem acceptByte_cursor {s t : State} {b : Byte} (h : acceptByte b s = .next t) :
    t.writeCursor = s.writeCursor ∨
    (s.writeCursor.toNat < s.cfg.maxPayload ∧ t.writeCursor.toNat = s.writeCursor.toNat + 1 ∧
      s.frameOpen = true) ∨
    (t.writeCursor = 0 ∧ b = markEnd ∧ s.frameOpen = true ∧ s.escapePending = false) := by
  rcases acceptByte_cases h with ⟨-, -, rfl⟩ | ⟨-, -, rfl⟩ | ⟨ho, -, rfl⟩ | ⟨-, -, -, rfl⟩ |
    ⟨ho, he, hb, p, -, hd⟩ | ⟨ho, -, -, -, rfl⟩
  · exact .inl rfl
  · exact .inl rfl
  · exact (s.clearEscape.append_cursor_cases b).imp_right fun ⟨hlt, hcur⟩ => .inl ⟨hlt, hcur, ho⟩
  · exact .inl rfl
  · obtain ⟨-, -, -, hcur, -⟩ := dispatchPayload_frame hd
    exact .inr (.inr ⟨hcur, hb, ho, he⟩)
  · exact (s.append_cursor_cases b).imp_right fun ⟨hlt, hcur⟩ => .inl ⟨hlt, hcur, ho⟩

/-- R25: a dispatch writes the colour only for a SET, with its operands. -/
theorem dispatchPayload_colour {p : List Byte} {s t : State} (h : dispatchPayload p s = .next t) :
    (t.colorR = s.colorR ∧ t.colorG = s.colorG ∧ t.colorB = s.colorB) ∨
    ∃ r g b extra, p = typeRequest :: opSetColor :: r :: g :: b :: extra ∧
      (extra = [] ∨ s.cfg.setLenPolicy = .atLeast) ∧ t.colorR = r ∧ t.colorG = g ∧ t.colorB = b := by
  rcases dispatchPayload_cases s.cfg.setLenPolicy p with hc | ⟨r, g, b, extra, hp, hx, hc⟩ | ⟨args, -, hc⟩
  all_goals
    rw [hc s rfl] at h
    cases h
  · exact .inl ⟨rfl, rfl, rfl⟩
  · exact .inr ⟨r, g, b, extra, hp, hx, rfl, rfl, rfl⟩
  · exact .inl ⟨rfl, rfl, rfl⟩

theorem acceptByte_colour {s t : State} {b : Byte} (h : acceptByte b s = .next t) :
    (t.colorR = s.colorR ∧ t.colorG = s.colorG ∧ t.colorB = s.colorB) ∨
    ∃ r g bl extra, s.Delivers b (typeRequest :: opSetColor :: r :: g :: bl :: extra) ∧
      (extra = [] ∨ s.cfg.setLenPolicy = .atLeast) ∧ t.colorR = r ∧ t.colorG = g ∧ t.colorB = bl := by
  rcases acceptByte_cases h with ⟨-, -, rfl⟩ | ⟨-, -, rfl⟩ | ⟨-, -, rfl⟩ | ⟨-, -, -, rfl⟩ |
    ⟨ho, he, hb, p, hp, hd⟩ | ⟨-, -, -, -, rfl⟩
  · exact .inl ⟨rfl, rfl, rfl⟩
  · exact .inl ⟨rfl, rfl, rfl⟩
  · exact .inl (by simp)
  · exact .inl ⟨rfl, rfl, rfl⟩
  · rcases dispatchPayload_colour hd with hsame | ⟨r, g, bl, extra, rfl, hx, hset⟩
    · exact .inl hsame
    · exact .inr ⟨r, g, bl, extra, ⟨ho, he, hb, hp⟩, hx, hset⟩
  · exact .inl (by simp)

/-! ### States that differ in stale bytes only -/

theorem State.Alike.withInputs {s t : State} (ha : s.Alike t) (l : List Transfer) :
    (s.withInputs l).Alike (t.withInputs l) := { ha with inputs := rfl }

theorem State.Alike.openFrame {s t : State} (ha : s.Alike t) : s.openFrame.Alike t.openFrame :=
  { ha with frameOpen := rfl }

theorem State.Alike.armEscape {s t : State} (ha : s.Alike t) : s.armEscape.Alike t.armEscape :=
  { ha with escapePending := rfl }

theorem State.Alike.clearEscape {s t : State} (ha : s.Alike t) : s.clearEscape.Alike t.clearEscape :=
  { ha with escapePending := rfl }

theorem State.Alike.closeFrame {s t : State} (ha : s.Alike t) : s.closeFrame.Alike t.closeFrame :=
  { ha with
    frameOpen := rfl
    writeCursor := rfl
    below := fun i h => by simp at h }

theorem State.Alike.deliver {s t : State} (ha : s.Alike t) (p : List Byte) : (s.deliver p).Alike (t.deliver p) :=
  { ha with trace := by simp [ha.trace] }

theorem State.Alike.applyReset {s t : State} (ha : s.Alike t) : s.applyReset.Alike t.applyReset where
  cfg := ha.cfg
  frameOpen := rfl
  escapePending := rfl
  writeCursor := rfl
  colorR := rfl
  colorG := rfl
  colorB := rfl
  inputs := ha.inputs
  trace := ha.trace
  below := fun i h => by simp at h

/-- The byte `append` stores is the same in both states, so the index that enters the compared range agrees. -/
theorem State.Alike.append {s t : State} (ha : s.Alike t) (b : Byte) : (s.append b).Alike (t.append b) := by
  by_cases hlt : s.writeCursor.toNat < s.cfg.maxPayload
  · have hlt' : t.writeCursor.toNat < t.cfg.maxPayload := by rwa [ha.writeCursor, ha.cfg]
    have hcur := s.append_cursor_of_lt b hlt
    rw [State.append_of_lt s b hlt] at hcur ⊢
    rw [State.append_of_lt t b hlt']
    exact { ha with
      writeCursor := by simp [ha.writeCursor]
      below := fun i h => by
        simp only [ha.writeCursor, Memory.read_write]
        split
        · rfl
        · exact ha.below i (by omega) }
  · have hle : t.cfg.maxPayload ≤ t.writeCursor.toNat := by
      rw [ha.writeCursor, ha.cfg]
      omega
    rwa [s.append_of_le b (by omega), t.append_of_le b hle]

/-- R32: an END reads written bytes only, so no free value enters a payload. -/
theorem State.Alike.payload_eq {s t : State} (ha : s.Alike t) (hi : s.Inv) : t.payload = s.payload := by
  have hs : s.writeCursor.toNat ≤ s.cfg.maxPayload := hi.cursor_le
  have hread : ∀ i < s.writeCursor.toNat, t.readBuffer i = s.readBuffer i := fun i hlt => by
    obtain ⟨v, hv⟩ := Option.isSome_iff_exists.1 (hi.written i hlt)
    simp [State.readBuffer, ha.below i hlt, hv]
  rw [s.payload_eq_some hs, t.payload_eq_some (by rwa [ha.writeCursor, ha.cfg]), ha.writeCursor]
  refine congrArg some (List.map_congr_left fun i hmem => hread i ?_)
  simpa using hmem

theorem State.Alike.responseEvents_eq {s t : State} (ha : s.Alike t) (result : List Byte) :
    responseEvents t result = responseEvents s result := by
  rw [responseEvents, responseEvents, ha.cfg]

theorem State.Alike.dispatchPayload {s t s' t' : State} {p : List Byte} (ha : s.Alike t)
    (hs : dispatchPayload p s = .next s') (ht : dispatchPayload p t = .next t') : s'.Alike t' := by
  have hpol : t.cfg.setLenPolicy = s.cfg.setLenPolicy := by rw [ha.cfg]
  rcases dispatchPayload_cases s.cfg.setLenPolicy p with hc | ⟨r, g, b, extra, -, -, hc⟩ | ⟨args, -, hc⟩
  all_goals
    rw [hc s rfl] at hs
    rw [hc t hpol] at ht
    cases hs
    cases ht
  · exact ha
  · exact { ha with
      colorR := rfl
      colorG := rfl
      colorB := rfl
      trace := by simp only [ha.trace, ha.responseEvents_eq] }
  · exact { ha with
      trace := by simp only [ha.trace, ha.colorR, ha.colorG, ha.colorB, ha.responseEvents_eq] }

/-- The byte has the same class in both states, since the flags agree. -/
theorem State.Alike.acceptByte {s t s' t' : State} {b : Byte} (ha : s.Alike t) (hi : s.Inv)
    (hs : acceptByte b s = .next s') (ht : acceptByte b t = .next t') : s'.Alike t' := by
  have ho' := ha.frameOpen
  have he' := ha.escapePending
  rcases acceptByte_cases hs with ⟨ho, rfl, rfl⟩ | ⟨ho, hb, rfl⟩ | ⟨ho, he, rfl⟩ | ⟨ho, he, rfl, rfl⟩ |
    ⟨ho, he, rfl, p, hp, hd⟩ | ⟨ho, he, h1, h2, rfl⟩
  · rw [acceptByte_idle_start t (ho'.trans ho)] at ht
    cases ht
    exact ha.openFrame
  · rw [acceptByte_idle_ignore t b (ho'.trans ho) hb] at ht
    cases ht
    exact ha
  · rw [acceptByte_escaped t b (ho'.trans ho) (he'.trans he)] at ht
    cases ht
    exact ha.clearEscape.append b
  · rw [acceptByte_escape t (ho'.trans ho) (he'.trans he)] at ht
    cases ht
    exact ha.armEscape
  · rw [acceptByte_end t p (ho'.trans ho) (he'.trans he) ((ha.payload_eq hi).trans hp)] at ht
    exact (ha.closeFrame.deliver p).dispatchPayload hd ht
  · rw [acceptByte_data t b (ho'.trans ho) (he'.trans he) h1 h2] at ht
    cases ht
    exact ha.append b

/-! ### The positions -/

/-- The table of R28. -/
theorem State.position_iff (s : State) :
    (s.position = .idle ↔ s.frameOpen = false ∧ s.escapePending = false) ∧
    (s.position = .inFrame ↔ s.frameOpen = true ∧ s.escapePending = false) ∧
    (s.position = .escaped ↔ s.frameOpen = true ∧ s.escapePending = true) ∧
    (s.position = .unreachable ↔ s.frameOpen = false ∧ s.escapePending = true) := by
  unfold State.position
  cases s.frameOpen <;> cases s.escapePending <;> simp

/-! ### The obligations -/

/-- Settles O41: a step is a byte, which keeps the invariant, or a reset, which reaches it from anywhere, or changes
only what the invariant does not read. -/
theorem everyStepKeepsTheStateInvariant : Obligations.EveryStepKeepsTheStateInvariant := by
  intro s t hi h
  rcases step_cases h with ⟨-, rfl⟩ | ⟨rest, -, rfl⟩ | ⟨b, rest, -, ha⟩ | ⟨o, rest, -, rfl⟩ |
    ⟨b, rest, whole, -, -, rfl⟩
  · exact hi
  · exact hi.withInputs rest
  · exact (hi.withInputs rest).acceptByte ha
  · exact State.inv_applyReset _
  · exact State.inv_applyReset _

/-- Settles O16. -/
theorem flagsAfterAByte : Obligations.FlagsAfterAByte := by
  intro s t b rest hi hin h
  rw [step_byte s b rest hin] at h
  have hflags := acceptByte_flags (hi.withInputs rest) h
  exact hflags

/-- Settles O39: of the transfers, a byte writes the colour by a SET and a reset clears it. -/
theorem colourIsWrittenOnlyBySetOrReset : Obligations.ColourIsWrittenOnlyBySetOrReset := by
  intro s t h
  rcases step_cases h with ⟨-, rfl⟩ | ⟨rest, -, rfl⟩ | ⟨b, rest, hin, ha⟩ | ⟨o, rest, hin, rfl⟩ |
    ⟨b, rest, whole, hin, -, rfl⟩
  · exact .inl ⟨rfl, rfl, rfl⟩
  · exact .inl ⟨rfl, rfl, rfl⟩
  · rcases acceptByte_colour ha with hsame | ⟨r, g, bl, extra, ⟨ho, he, rfl, hp⟩, hx, hset⟩
    · exact .inl hsame
    · exact .inr (.inl ⟨r, g, bl, extra, rest, hin, ho, he, hp, hx, hset⟩)
  · exact .inr (.inr ⟨.inl ⟨o, by simp [hin]⟩, rfl, rfl, rfl⟩)
  · exact .inr (.inr ⟨.inr ⟨b, by simp [hin]⟩, rfl, rfl, rfl⟩)

/-- Settles O40: of the transfers, a byte moves the cursor as R22 says and a reset clears it. -/
theorem cursorMovesByOneOrToZero : Obligations.CursorMovesByOneOrToZero := by
  intro s t h
  rcases step_cases h with ⟨-, rfl⟩ | ⟨rest, -, rfl⟩ | ⟨b, rest, hin, ha⟩ | ⟨o, rest, hin, rfl⟩ |
    ⟨b, rest, whole, hin, -, rfl⟩
  · exact .inl rfl
  · exact .inl rfl
  · rcases acceptByte_cursor ha with hsame | ⟨hlt, hcur, ho⟩ | ⟨hzero, rfl, ho, he⟩
    · exact .inl hsame
    · exact .inr (.inl ⟨(maxPayload_eq s.cfg).symm ▸ hlt, hcur, ho, b, by simp [hin]⟩)
    · exact .inr (.inr ⟨hzero, .inl ⟨by simp [hin], ho, he⟩⟩)
  · exact .inr (.inr ⟨rfl, .inr (.inl ⟨o, by simp [hin]⟩)⟩)
  · exact .inr (.inr ⟨rfl, .inr (.inr ⟨b, by simp [hin]⟩)⟩)

/-- Settles O44: both states take the same transfer, and each transfer but a reset inside a step keeps them alike. -/
theorem staleBytesAreNotObservable : Obligations.StaleBytesAreNotObservable := by
  intro s t s' t' hi _ ha hcut hs ht
  have hin' := ha.inputs
  rcases step_cases hs with ⟨hin, rfl⟩ | ⟨rest, hin, rfl⟩ | ⟨b, rest, hin, hb⟩ | ⟨o, rest, hin, rfl⟩ |
    ⟨b, rest, whole, hin, -, -⟩
  · rw [step_nil t (hin'.trans hin)] at ht
    cases ht
    exact ha
  · rw [step_idle t rest (hin'.trans hin)] at ht
    cases ht
    exact ha.withInputs rest
  · rw [step_byte t b rest (hin'.trans hin)] at ht
    exact (ha.withInputs rest).acceptByte (hi.withInputs rest) hb ht
  · rw [step_reset t o rest (hin'.trans hin)] at ht
    cases ht
    exact (ha.withInputs rest).applyReset
  · exact absurd (by simp [hin]) (hcut b)

/-- Settles O8: the invariant excludes the fourth position by R30 (b). -/
theorem positionsNameTheFlagPairs : Obligations.PositionsNameTheFlagPairs := by
  intro s
  obtain ⟨hidle, hin, hesc, hunr⟩ := s.position_iff
  refine ⟨hidle, hin, hesc, hunr, fun hi hpos => ?_⟩
  obtain ⟨ho, he⟩ := hunr.1 hpos
  simp [hi.escape_open he] at ho

/-- Settles O27. -/
theorem resetStateValues : Obligations.ResetStateValues := by
  unfold Obligations.ResetStateValues
  decide

/-- Settles O42: `State.reset` has the fields that a reset leaves on this hardware. -/
theorem stateInvariantHoldsAtReset : Obligations.StateInvariantHoldsAtReset :=
  State.reset.inv_applyReset.of_eq rfl rfl rfl rfl rfl

end Sys2Proof.Machine

/-! # The encodings (spec/30_encoding.md): keys, payloads and response frames, decoded and encoded, and the cost of a
frame on the wire -/

namespace Sys2Proof.Machine

/-! ### The fields of an input-byte key (R76) -/

theorem getLsbD_rxKey (fo ep : Bool) (b : Byte) (i : Nat) :
    (rxKey fo ep b).getLsbD i = if i < 8 then b.getLsbD i else if i = 8 then ep else i == 9 && fo := by
  rw [rxKey, BitVec.getLsbD_append, BitVec.getLsbD_append]
  rcases (by omega : i < 8 ∨ i = 8 ∨ 9 ≤ i) with h | rfl | h
  · simp [h, (by omega : i < 9)]
  · simp
  · rw [if_neg (by omega), if_neg (by omega), if_neg (by omega), BitVec.getLsbD_ofBool]
    congr 1
    exact decide_eq_decide.2 (by omega)

@[simp] theorem rxKeyFrameOpen_rxKey (fo ep : Bool) (b : Byte) : rxKeyFrameOpen (rxKey fo ep b) = fo := by
  rw [rxKeyFrameOpen, getLsbD_rxKey]
  rfl

@[simp] theorem rxKeyEscapePending_rxKey (fo ep : Bool) (b : Byte) : rxKeyEscapePending (rxKey fo ep b) = ep := by
  rw [rxKeyEscapePending, getLsbD_rxKey]
  rfl

@[simp] theorem rxKeyByte_rxKey (fo ep : Bool) (b : Byte) : rxKeyByte (rxKey fo ep b) = b := by
  apply BitVec.eq_of_getLsbD_eq
  intro i hi
  simp [rxKeyByte, getLsbD_rxKey, hi]

/-- The two flags and the byte are the whole key. -/
theorem rxKey_fields (key : BitVec 10) : rxKey (rxKeyFrameOpen key) (rxKeyEscapePending key) (rxKeyByte key) = key := by
  apply BitVec.eq_of_getLsbD_eq
  intro i hi
  rw [getLsbD_rxKey]
  rcases (by omega : i < 8 ∨ i = 8 ∨ i = 9) with h | rfl | rfl
  · simp [rxKeyByte, h]
  · rfl
  · simp [rxKeyFrameOpen]

@[simp] theorem decode_rxKey (cfg : Config) (fo ep : Bool) (b : Byte) :
    decode cfg (.rx (rxKey fo ep b)) = .instr (decodeRx fo ep b) := by
  simp [decode]

@[simp] theorem canonical_rxKey_closed (ep : Bool) (b : Byte) :
    canonical (.rx (rxKey false ep b)) = .rx (rxKey false false b) := by
  simp [canonical]

@[simp] theorem canonical_rxKey_open (ep : Bool) (b : Byte) :
    canonical (.rx (rxKey true ep b)) = .rx (rxKey true ep b) := by
  simp [canonical]

/-! ### The rows of the input bytes (R62) -/

theorem decodeRx_idle_start (ep : Bool) : decodeRx false ep markStart = .rxIdleStart := rfl

theorem decodeRx_idle_ignore (ep : Bool) {b : Byte} (h : b ≠ markStart) : decodeRx false ep b = .rxIdleIgnore b := by
  simp [decodeRx, h]

theorem decodeRx_escaped (b : Byte) : decodeRx true true b = .rxEscapedLiteral b := rfl

theorem decodeRx_escape : decodeRx true false markEscape = .rxEscape := rfl

theorem decodeRx_end : decodeRx true false markEnd = .rxEnd := rfl

theorem decodeRx_data {b : Byte} (h1 : b ≠ markEscape) (h2 : b ≠ markEnd) : decodeRx true false b = .rxData b := by
  simp [decodeRx, h1, h2]

/-- The class of an input byte, with what it says of the flags and the byte. -/
theorem decodeRx_cases (fo ep : Bool) (b : Byte) :
    (fo = false ∧ b = markStart ∧ decodeRx fo ep b = .rxIdleStart) ∨
    (fo = false ∧ b ≠ markStart ∧ decodeRx fo ep b = .rxIdleIgnore b) ∨
    (fo = true ∧ ep = true ∧ decodeRx fo ep b = .rxEscapedLiteral b) ∨
    (fo = true ∧ ep = false ∧ b = markEscape ∧ decodeRx fo ep b = .rxEscape) ∨
    (fo = true ∧ ep = false ∧ b = markEnd ∧ decodeRx fo ep b = .rxEnd) ∨
    (fo = true ∧ ep = false ∧ b ≠ markEscape ∧ b ≠ markEnd ∧ decodeRx fo ep b = .rxData b) := by
  cases fo with
  | false =>
    by_cases h : b = markStart
    · subst h
      exact .inl ⟨rfl, rfl, decodeRx_idle_start ep⟩
    · exact .inr (.inl ⟨rfl, h, decodeRx_idle_ignore ep h⟩)
  | true =>
    cases ep with
    | true => exact .inr (.inr (.inl ⟨rfl, rfl, decodeRx_escaped b⟩))
    | false =>
      by_cases h1 : b = markEscape
      · subst h1
        exact .inr (.inr (.inr (.inl ⟨rfl, rfl, rfl, decodeRx_escape⟩)))
      · by_cases h2 : b = markEnd
        · subst h2
          exact .inr (.inr (.inr (.inr (.inl ⟨rfl, rfl, rfl, decodeRx_end⟩))))
        · exact .inr (.inr (.inr (.inr (.inr ⟨rfl, rfl, h1, h2, decodeRx_data h1 h2⟩))))

theorem wellFormed_decodeRx (cfg : Config) (fo ep : Bool) (b : Byte) : (decodeRx fo ep b).wellFormed cfg = true := by
  rcases decodeRx_cases fo ep b with ⟨-, -, he⟩ | ⟨-, hb, he⟩ | ⟨-, -, he⟩ | ⟨-, -, -, he⟩ | ⟨-, -, -, he⟩ |
    ⟨-, -, h1, h2, he⟩
  · rw [he, Instr.wellFormed]
  · simpa [he, Instr.wellFormed] using hb
  · rw [he, Instr.wellFormed]
  · rw [he, Instr.wellFormed]
  · rw [he, Instr.wellFormed]
  · simpa [he, Instr.wellFormed] using ⟨h1, h2⟩

theorem encode_decodeRx (fo ep : Bool) (b : Byte) : encode (decodeRx fo ep b) = canonical (.rx (rxKey fo ep b)) := by
  rcases decodeRx_cases fo ep b with ⟨rfl, rfl, he⟩ | ⟨rfl, -, he⟩ | ⟨rfl, rfl, he⟩ | ⟨rfl, rfl, rfl, he⟩ |
    ⟨rfl, rfl, rfl, he⟩ | ⟨rfl, rfl, -, -, he⟩ <;>
  simp [he, encode]

/-! ### The six `RX8` rows of spec/opcode_table.json: what each accepts -/

theorem accepts_rxIdleStart : ∀ (fo ep : Bool) (b : Byte),
    Instr.rxIdleStart.tableRow.accepts (rxKey fo ep b).toNat = (!fo && b == markStart) := by
  decide +kernel

theorem accepts_rxIdleIgnore : ∀ (fo ep : Bool) (b : Byte),
    (Instr.rxIdleIgnore b).tableRow.accepts (rxKey fo ep b).toNat = !fo := by
  decide +kernel

theorem accepts_rxEscapedLiteral : ∀ (fo ep : Bool) (b : Byte),
    (Instr.rxEscapedLiteral b).tableRow.accepts (rxKey fo ep b).toNat = (fo && ep) := by
  decide +kernel

theorem accepts_rxEscape : ∀ (fo ep : Bool) (b : Byte),
    Instr.rxEscape.tableRow.accepts (rxKey fo ep b).toNat = (fo && !ep && b == markEscape) := by
  decide +kernel

theorem accepts_rxEnd : ∀ (fo ep : Bool) (b : Byte),
    Instr.rxEnd.tableRow.accepts (rxKey fo ep b).toNat = (fo && !ep && b == markEnd) := by
  decide +kernel

theorem accepts_rxData : ∀ (fo ep : Bool) (b : Byte),
    (Instr.rxData b).tableRow.accepts (rxKey fo ep b).toNat = (fo && !ep) := by
  decide +kernel

theorem firstRxRow_rxKey (fo ep : Bool) (b : Byte) : firstRxRow (rxKey fo ep b) = some (decodeRx fo ep b) := by
  simp only [firstRxRow, rxRows, rxKeyByte_rxKey, List.find?, accepts_rxIdleStart, accepts_rxIdleIgnore,
    accepts_rxEscapedLiteral, accepts_rxEscape, accepts_rxEnd, accepts_rxData]
  rcases decodeRx_cases fo ep b with ⟨rfl, rfl, he⟩ | ⟨rfl, hb, he⟩ | ⟨rfl, rfl, he⟩ | ⟨rfl, rfl, rfl, he⟩ |
    ⟨rfl, rfl, rfl, he⟩ | ⟨rfl, rfl, h1, h2, he⟩
  · simp [he]
  · simp [he, beq_eq_false_iff_ne.2 hb]
  · simp [he]
  · simp [he]
  · simp [he, show (markEnd == markEscape) = false from rfl]
  · simp [he, beq_eq_false_iff_ne.2 h1, beq_eq_false_iff_ne.2 h2]

/-! ### The rows of the payloads (41_command_dispatcher.md R121) -/

theorem setArgsAccepted_extra_iff {policy : SetLenPolicy} {extra : List Byte} :
    setArgsAccepted policy (extra.length + 3) = true ↔ extra = [] ∨ policy = .atLeast := by
  rcases extra with _ | ⟨x, rest⟩ <;> simp [setArgsAccepted]

theorem setArgsAccepted_eq_false_iff {policy : SetLenPolicy} {n : Nat} :
    setArgsAccepted policy n = false ↔ n < 3 ∨ 3 < n ∧ policy = .exact := by
  cases policy with
  | exact => simp [setArgsAccepted]
  | atLeast => simpa [setArgsAccepted] using (by omega : ¬n = 3 ∧ n ≤ 3 ↔ n < 3)

theorem decodePayload_notRequest (policy : SetLenPolicy) {m : Byte} (op : Byte) (args : List Byte)
    (h : m ≠ typeRequest) : decodePayload policy (m :: op :: args) = .dispatchNotRequest m op args := by
  simp [decodePayload, h]

theorem decodePayload_setLedColor {policy : SetLenPolicy} (r g b : Byte) {extra : List Byte}
    (h : setArgsAccepted policy (extra.length + 3) = true) :
    decodePayload policy (typeRequest :: opSetColor :: r :: g :: b :: extra) = .setLedColor r g b extra := by
  rcases setArgsAccepted_extra_iff.1 h with rfl | rfl
  · rfl
  · cases extra <;> rfl

theorem decodePayload_setLedColorBadlen {policy : SetLenPolicy} {args : List Byte}
    (h : setArgsAccepted policy args.length = false) :
    decodePayload policy (typeRequest :: opSetColor :: args) = .setLedColorBadlen args := by
  rcases decodeSet_cases policy args with ⟨r, g, b, extra, rfl, hx, -⟩ | ⟨-, he⟩
  · exact absurd (setArgsAccepted_extra_iff.2 hx) (by simpa using h)
  · exact he

theorem decodePayload_get (policy : SetLenPolicy) (args : List Byte) :
    decodePayload policy (typeRequest :: opGetColor :: args) = .getLedColor args := rfl

theorem decodePayload_unknown (policy : SetLenPolicy) {op : Byte} (args : List Byte) (h1 : op ≠ opSetColor)
    (h2 : op ≠ opGetColor) : decodePayload policy (typeRequest :: op :: args) = .dispatchUnknownOpcode op args := by
  simp [decodePayload, h1, h2]

theorem wellFormed_decodePayload {cfg : Config} {p : List Byte} (hp : p.length ≤ cfg.maxPayload) :
    (decodePayload cfg.setLenPolicy p).wellFormed cfg = true := by
  rcases decodePayload_cases cfg.setLenPolicy p with ⟨hs, he⟩ | ⟨m, op, args, rfl, hm, he⟩ |
    ⟨r, g, b, extra, rfl, hx, he⟩ | ⟨args, rfl, hx, he⟩ | ⟨args, rfl, he⟩ | ⟨op, args, rfl, h1, h2, he⟩
  · simpa [he, Instr.wellFormed] using ⟨Nat.le_of_lt_succ hs, hp⟩
  · simpa [he, Instr.wellFormed] using ⟨hm, hp⟩
  · have ha : setArgsAccepted cfg.setLenPolicy (extra.length + 3) = true := setArgsAccepted_extra_iff.2 hx
    rw [he, Instr.wellFormed, ha]
    exact decide_eq_true hp
  · have ha : setArgsAccepted cfg.setLenPolicy args.length = false := setArgsAccepted_eq_false_iff.2 hx
    rw [he, Instr.wellFormed, ha]
    exact decide_eq_true hp
  · rw [he, Instr.wellFormed]
    exact decide_eq_true hp
  · simpa [he, Instr.wellFormed] using ⟨⟨h1, h2⟩, hp⟩

theorem encode_decodePayload (policy : SetLenPolicy) (p : List Byte) : encode (decodePayload policy p) = .req p := by
  rcases decodePayload_cases policy p with ⟨-, he⟩ | ⟨m, op, args, rfl, -, he⟩ | ⟨r, g, b, extra, rfl, -, he⟩ |
    ⟨args, rfl, -, he⟩ | ⟨args, rfl, he⟩ | ⟨op, args, rfl, -, -, he⟩ <;>
  rw [he, encode]

theorem decode_req_eq_instr_iff {cfg : Config} {p : List Byte} {i : Instr} :
    decode cfg (.req p) = .instr i ↔ p.length ≤ cfg.maxPayload ∧ decodePayload cfg.setLenPolicy p = i := by
  by_cases h : p.length ≤ cfg.maxPayload <;> simp [decode, h]

/-! ### The response frames (R70) and the reset input -/

theorem decodeResponse_eq_instr {bytes : List Byte} {i : Instr} (h : decodeResponse bytes = .instr i) :
    (bytes = [markStart, typeResponse, ackValue, markEnd] ∧ i = .respAck) ∨
    (∃ r g b, bytes = [markStart, typeResponse, r, g, b, markEnd] ∧ i = .respColor r g b) := by
  unfold decodeResponse at h
  split at h
  · split at h
    · rename_i hb
      obtain ⟨rfl, rfl, rfl, rfl⟩ := hb
      cases h
      exact .inl ⟨rfl, rfl⟩
    · cases h
  · split at h
    · rename_i hb
      obtain ⟨rfl, rfl, rfl⟩ := hb
      cases h
      exact .inr ⟨_, _, _, rfl, rfl⟩
    · cases h
  · cases h

theorem decode_ctrl_eq_instr_iff {cfg : Config} {rst : Bool} {i : Instr} :
    decode cfg (.ctrl rst) = .instr i ↔ rst = true ∧ i = .reset := by
  cases rst <;> simp [decode, eq_comm]

/-! ### The cost of a frame (R65) -/

theorem length_stuff (b : Byte) : (stuff b).length = 1 + (if isMarker b then 1 else 0) := by
  unfold stuff
  split <;> rfl

theorem length_flatMap_stuff (p : List Byte) :
    (p.flatMap stuff).length = p.length + (p.filter isMarker).length := by
  induction p with
  | nil => rfl
  | cons b p ih =>
    rw [List.flatMap_cons, List.length_append, ih, length_stuff, List.length_cons, List.filter_cons]
    split
    · rw [List.length_cons]
      omega
    · omega

/-! ### A byte that ends no frame -/

theorem acceptByte_of_classify_ne_end {s : State} {b : Byte} (h : s.classify b ≠ .rxEnd) :
    acceptByte b s = exec (s.classify b) s := by
  have hr : s.returned (s.classify b) = none := by simp [State.returned, h]
  rw [acceptByte, hr]
  cases exec (s.classify b) s <;> rfl

/-! ### The obligations -/

/-- Settles O2, row by row: the input bytes by the rows of R62, the payloads by those of R121, under the row's
condition that well-formedness gives. -/
theorem decodeOfEncodeIsTheInstruction : Obligations.DecodeOfEncodeIsTheInstruction := by
  intro cfg i h
  cases i with
  | rxIdleStart => rfl
  | rxIdleIgnore b =>
    have hb : b ≠ markStart := by simpa [Instr.wellFormed] using h
    rw [encode, decode_rxKey, decodeRx_idle_ignore _ hb]
  | rxEscapedLiteral b => rw [encode, decode_rxKey, decodeRx_escaped]
  | rxEscape => rfl
  | rxEnd => rfl
  | rxData b =>
    obtain ⟨h1, h2⟩ : b ≠ markEscape ∧ b ≠ markEnd := by simpa [Instr.wellFormed] using h
    rw [encode, decode_rxKey, decodeRx_data h1 h2]
  | dispatchShort p =>
    obtain ⟨hs, hl⟩ : p.length < 2 ∧ p.length ≤ cfg.maxPayload := by simpa [Instr.wellFormed] using h
    exact decode_req_eq_instr_iff.2 ⟨hl, decodePayload_short _ p hs⟩
  | dispatchNotRequest m op args =>
    obtain ⟨hm, hl⟩ : m ≠ typeRequest ∧ args.length + 2 ≤ cfg.maxPayload := by simpa [Instr.wellFormed] using h
    exact decode_req_eq_instr_iff.2 ⟨hl, decodePayload_notRequest _ op args hm⟩
  | setLedColor r g b extra =>
    obtain ⟨ha, hl⟩ : setArgsAccepted cfg.setLenPolicy (extra.length + 3) = true ∧
        extra.length + 5 ≤ cfg.maxPayload := by simpa [Instr.wellFormed] using h
    exact decode_req_eq_instr_iff.2 ⟨hl, decodePayload_setLedColor r g b ha⟩
  | setLedColorBadlen args =>
    obtain ⟨ha, hl⟩ : setArgsAccepted cfg.setLenPolicy args.length = false ∧ args.length + 2 ≤ cfg.maxPayload := by
      simpa [Instr.wellFormed] using h
    exact decode_req_eq_instr_iff.2 ⟨hl, decodePayload_setLedColorBadlen ha⟩
  | getLedColor args =>
    have hl : args.length + 2 ≤ cfg.maxPayload := by simpa [Instr.wellFormed] using h
    exact decode_req_eq_instr_iff.2 ⟨hl, decodePayload_get _ args⟩
  | dispatchUnknownOpcode op args =>
    obtain ⟨⟨h1, h2⟩, hl⟩ : (op ≠ opSetColor ∧ op ≠ opGetColor) ∧ args.length + 2 ≤ cfg.maxPayload := by
      simpa [Instr.wellFormed] using h
    exact decode_req_eq_instr_iff.2 ⟨hl, decodePayload_unknown _ args h1 h2⟩
  | respAck => rfl
  | respColor r g b => rfl
  | reset => rfl

/-- Settles O3, format by format. -/
theorem decodedInstructionsEncodeBack : Obligations.DecodedInstructionsEncodeBack := by
  intro cfg e i h
  cases e with
  | rx key =>
    rw [← rxKey_fields key, decode_rxKey] at h
    cases h
    exact ⟨wellFormed_decodeRx cfg _ _ _, by rw [encode_decodeRx, rxKey_fields]⟩
  | req p =>
    obtain ⟨hp, rfl⟩ := decode_req_eq_instr_iff.1 h
    exact ⟨wellFormed_decodePayload hp, encode_decodePayload _ p⟩
  | resp bytes =>
    rcases decodeResponse_eq_instr h with ⟨rfl, rfl⟩ | ⟨r, g, b, rfl, rfl⟩ <;>
    exact ⟨rfl, rfl⟩
  | ctrl rst =>
    obtain ⟨rfl, rfl⟩ := decode_ctrl_eq_instr_iff.1 h
    exact ⟨rfl, rfl⟩

/-- Settles O7: START and END are the 2, and each byte costs one and its escape. -/
theorem wireLengthOfAFrame : Obligations.WireLengthOfAFrame := by
  intro p
  simp only [frameBytes, List.length_cons, List.length_append, List.length_nil, length_flatMap_stuff]
  omega

/-- Settles O1: only a payload's length asks anything of the configuration. -/
theorem encodingsFromTheSpecDecode : Obligations.EncodingsFromTheSpecDecode := by
  intro cfg h
  have req : ∀ (p : List Byte) (i : Instr), p.length ≤ 5 → decodePayload cfg.setLenPolicy p = i →
      decode cfg (.req p) = .instr i := fun p i hp hi => decode_req_eq_instr_iff.2 ⟨hp.trans h, hi⟩
  exact ⟨rfl, rfl, rfl, rfl, rfl, rfl, req _ _ (by decide) rfl, req _ _ (by decide) rfl, req _ _ (by decide) rfl,
    req _ _ (by decide) rfl, req _ _ (by decide) rfl, req _ _ (by decide) rfl, rfl, rfl, rfl⟩

/-- Settles O4. -/
theorem inputByteClassesFollowTheDecodeTable : Obligations.InputByteClassesFollowTheDecodeTable := by
  intro fo ep b
  refine ⟨?_, ?_, ?_, ?_, ?_, ?_, ?_⟩
  · rintro ⟨rfl, rfl⟩
    exact decodeRx_idle_start ep
  · rintro ⟨rfl, hb⟩
    exact decodeRx_idle_ignore ep (by rintro rfl; exact absurd hb (by decide))
  · rintro ⟨rfl, rfl⟩
    exact decodeRx_escaped b
  · rintro ⟨rfl, rfl, rfl⟩
    exact decodeRx_escape
  · rintro ⟨rfl, rfl, rfl⟩
    exact decodeRx_end
  · rintro ⟨rfl, rfl, hb⟩
    exact decodeRx_data (by rintro rfl; exact absurd hb (by decide)) (by rintro rfl; exact absurd hb (by decide))
  · have hclosed : b = 0xFF ∨ b.toNat ≤ 0xFE := by bv_omega
    have hopen : b = 0xFD ∨ b = 0xFE ∨ b.toNat ≤ 0xFC ∨ b = 0xFF := by bv_omega
    cases fo with
    | false => exact .inl ⟨rfl, hclosed⟩
    | true =>
      cases ep with
      | true => exact .inr (.inl ⟨rfl, rfl⟩)
      | false => exact .inr (.inr ⟨rfl, rfl, hopen⟩)

/-- Settles O5: each row accepts just the flags and bytes that its class is for, less those of the rows before it. -/
theorem firstMatchingRowIsTheDecodedClass : Obligations.FirstMatchingRowIsTheDecodedClass := by
  intro key
  rw [← firstRxRow_rxKey, rxKey_fields]

/-- Settles O30: the key decodes to the class of the byte in this state, and but for RX_END nothing follows it. -/
theorem stepRunsTheDecodedInstruction : Obligations.StepRunsTheDecodedInstruction := by
  intro s rest
  refine ⟨fun b i hin hd hne => ?_, fun offered hin => step_reset s offered rest hin⟩
  rw [decode_rxKey] at hd
  cases hd
  rw [step_byte s b rest hin]
  exact acceptByte_of_classify_ne_end hne

end Sys2Proof.Machine

/-! # The frame decoder (spec/40_frame_decoder.md): the six classes of an input byte, and whole frames -/

namespace Sys2Proof.Machine

/-! ### What `append` stores, drops and leaves (R101) -/

theorem State.readBuffer_append_of_lt (s : State) (b : Byte) (h : s.writeCursor.toNat < s.cfg.maxPayload) (a : Nat) :
    (s.append b).readBuffer a = if a = s.writeCursor.toNat then b else s.readBuffer a := by
  rw [State.append_of_lt s b h]
  exact s.readBuffer_memWrite s.writeCursor.toNat a b

theorem State.append_eq_update (s : State) (b : Byte) :
    s.append b = { s with writeCursor := (s.append b).writeCursor, frameBuffer := (s.append b).frameBuffer } := by
  unfold State.append
  split <;> rfl

/-- `append` below `CAPACITY - 1`, as the byte classes state it. -/
theorem State.append_stores (s : State) (b : Byte) (h : s.writeCursor.toNat < s.cfg.capacity - 1) :
    (s.append b).writeCursor.toNat = s.writeCursor.toNat + 1 ∧ (s.append b).readBuffer s.writeCursor.toNat = b ∧
      ∀ a, a ≠ s.writeCursor.toNat → (s.append b).readBuffer a = s.readBuffer a := by
  rw [maxPayload_eq] at h
  have hread := s.readBuffer_append_of_lt b h
  exact ⟨s.append_cursor_of_lt b h, by rw [hread, if_pos rfl], fun a ha => by rw [hread, if_neg ha]⟩

/-- `append` in a full buffer. -/
theorem State.append_drops (s : State) (b : Byte) (h : s.cfg.capacity - 1 ≤ s.writeCursor.toNat) : s.append b = s :=
  s.append_of_le b (by rwa [maxPayload_eq] at h)

/-! ### The payload that an END would deliver (20_memory.md R43) -/

theorem State.cursor_eq_length {s : State} {q : List Byte} (h : s.payload = some q) :
    s.writeCursor.toNat = q.length := (State.memRead_length h).symm

theorem State.payload_eq_nil {s : State} (h : s.writeCursor = 0) : s.payload = some [] := by
  rw [s.payload_eq_some (by simp [h]), h]
  rfl

/-- The byte `append` stores is the last of the payload. -/
theorem State.payload_append_of_lt {s : State} {q : List Byte} (hq : s.payload = some q) (b : Byte)
    (h : s.writeCursor.toNat < s.cfg.maxPayload) : (s.append b).payload = some (q ++ [b]) := by
  have hcur := s.append_cursor_of_lt b h
  have hread := s.readBuffer_append_of_lt b h
  have hold : (List.range' 0 s.writeCursor.toNat).map (s.append b).readBuffer =
      (List.range' 0 s.writeCursor.toNat).map s.readBuffer :=
    List.map_congr_left fun i hi => by
      have hlt : i < s.writeCursor.toNat := by simpa using hi
      rw [hread, if_neg (by omega)]
  rw [s.payload_eq_some h.le, Option.some.injEq] at hq
  rw [(s.append b).payload_eq_some (by rw [hcur, State.append_cfg]; exact h), hcur, List.range'_1_concat,
    List.map_append, hold, hq]
  simp [hread]

/-! ### `append` of several bytes -/

/-- `append` each byte in order. -/
def State.appendAll (s : State) (p : List Byte) : State := p.foldl State.append s

theorem State.appendAll_nil (s : State) : s.appendAll [] = s := rfl

theorem State.appendAll_cons (s : State) (b : Byte) (p : List Byte) :
    s.appendAll (b :: p) = (s.append b).appendAll p := rfl

theorem State.appendAll_append (s : State) (p q : List Byte) :
    s.appendAll (p ++ q) = (s.appendAll p).appendAll q := List.foldl_append

theorem State.appendAll_eq_update (s : State) (p : List Byte) :
    s.appendAll p =
      { s with writeCursor := (s.appendAll p).writeCursor, frameBuffer := (s.appendAll p).frameBuffer } := by
  induction p generalizing s with
  | nil => rfl
  | cons b p ih =>
    rw [s.appendAll_cons, ih (s.append b), s.append_eq_update b]

@[simp] theorem State.appendAll_cfg (s : State) (p : List Byte) : (s.appendAll p).cfg = s.cfg := by
  rw [s.appendAll_eq_update p]

@[simp] theorem State.appendAll_frameOpen (s : State) (p : List Byte) : (s.appendAll p).frameOpen = s.frameOpen := by
  rw [s.appendAll_eq_update p]

@[simp] theorem State.appendAll_escapePending (s : State) (p : List Byte) :
    (s.appendAll p).escapePending = s.escapePending := by
  rw [s.appendAll_eq_update p]

@[simp] theorem State.appendAll_colorR (s : State) (p : List Byte) : (s.appendAll p).colorR = s.colorR := by
  rw [s.appendAll_eq_update p]

@[simp] theorem State.appendAll_colorG (s : State) (p : List Byte) : (s.appendAll p).colorG = s.colorG := by
  rw [s.appendAll_eq_update p]

@[simp] theorem State.appendAll_colorB (s : State) (p : List Byte) : (s.appendAll p).colorB = s.colorB := by
  rw [s.appendAll_eq_update p]

@[simp] theorem State.appendAll_inputs (s : State) (p : List Byte) : (s.appendAll p).inputs = s.inputs := by
  rw [s.appendAll_eq_update p]

@[simp] theorem State.appendAll_trace (s : State) (p : List Byte) : (s.appendAll p).trace = s.trace := by
  rw [s.appendAll_eq_update p]

/-- Bytes beyond `CAPACITY - 1` leave the payload as it is (90_conflicts.md C5). -/
theorem State.payload_appendAll {s : State} {q : List Byte} (hq : s.payload = some q) (p : List Byte) :
    (s.appendAll p).payload = some ((q ++ p).take s.cfg.maxPayload) := by
  induction p generalizing s q with
  | nil => rw [s.appendAll_nil, List.append_nil, List.take_of_length_le (State.payload_length_le hq), hq]
  | cons b p ih =>
    rw [s.appendAll_cons]
    by_cases h : s.writeCursor.toNat < s.cfg.maxPayload
    · rw [ih (State.payload_append_of_lt hq b h), State.append_cfg, List.append_assoc, List.singleton_append]
    · have hfull : s.cfg.maxPayload ≤ q.length := by
        rw [← State.cursor_eq_length hq]
        omega
      rw [s.append_of_le b (by omega), ih hq, List.take_append_of_le_length hfull,
        List.take_append_of_le_length hfull]

/-! ### Stuffed bytes in an open frame (30_encoding.md R75) -/

theorem State.armEscape_clearEscape {s : State} (he : s.escapePending = false) : s.armEscape.clearEscape = s := by
  cases s
  cases he
  rfl

theorem ne_escape_end_of_not_isMarker {b : Byte} (h : ¬ isMarker b = true) : b ≠ markEscape ∧ b ≠ markEnd := by
  constructor <;>
  · rintro rfl
    exact h rfl

/-- `LIT(b)` stores `b`: with its escape it is a literal, without one it is no marker. -/
theorem runBytes_stuff {s : State} (ho : s.frameOpen = true) (he : s.escapePending = false) (b : Byte) :
    runBytes s (stuff b) = .next (s.append b) := by
  unfold stuff
  split
  next hm =>
    rw [runBytes_cons _ (acceptByte_escape s ho he), runBytes_cons _ (acceptByte_escaped s.armEscape b ho rfl),
      runBytes_nil, State.armEscape_clearEscape he]
  next hm =>
    obtain ⟨h1, h2⟩ := ne_escape_end_of_not_isMarker hm
    rw [runBytes_cons _ (acceptByte_data s b ho he h1 h2), runBytes_nil]

theorem runBytes_flatMap_stuff {s : State} (ho : s.frameOpen = true) (he : s.escapePending = false) (p : List Byte) :
    runBytes s (p.flatMap stuff) = .next (s.appendAll p) := by
  induction p generalizing s with
  | nil => rfl
  | cons b p ih =>
    rw [List.flatMap_cons, runBytes_append _ _ (runBytes_stuff ho he b), s.appendAll_cons]
    exact ih (by rwa [State.append_frameOpen]) (by rwa [State.append_escapePending])

/-! ### Frames from rest -/

/-- START and the stuffed `p`. -/
theorem runBytes_start_flatMap_stuff {s : State} (hs : s.AtRest) (p : List Byte) :
    runBytes s (markStart :: p.flatMap stuff) = .next (s.openFrame.appendAll p) := by
  obtain ⟨ho, he, -⟩ := hs
  rw [runBytes_cons _ (acceptByte_idle_start s ho)]
  exact runBytes_flatMap_stuff (s := s.openFrame) rfl he p

/-- A START without an END before it is a byte of the frame (R114). -/
theorem runBytes_start_inside {s : State} (hs : s.AtRest) (p q : List Byte) :
    runBytes s ((markStart :: p.flatMap stuff) ++ (markStart :: q.flatMap stuff)) =
      .next (s.openFrame.appendAll (p ++ markStart :: q)) := by
  have hpre := runBytes_start_flatMap_stuff hs p
  obtain ⟨-, he, -⟩ := hs
  have hopen : (s.openFrame.appendAll p).frameOpen = true := by simp
  have hesc : (s.openFrame.appendAll p).escapePending = false := by simpa using he
  have hdata := acceptByte_data _ markStart hopen hesc (by decide) (by decide)
  rw [runBytes_append _ _ hpre, runBytes_cons _ hdata, State.appendAll_append, State.appendAll_cons]
  exact runBytes_flatMap_stuff (by rwa [State.append_frameOpen]) (by rwa [State.append_escapePending]) q

/-- END after bytes that opened a frame and appended `p` delivers `p` up to `CAPACITY - 1` bytes (R101, R107), and the
dispatch of it leaves the closed frame. -/
theorem end_delivers_appended {s : State} {bytes p : List Byte} (hs : s.AtRest)
    (hrun : runBytes s bytes = .next (s.openFrame.appendAll p)) :
    ∃ u t, runBytes s (bytes ++ [markEnd]) = .next t ∧ t.AtRest ∧ t.inputs = s.inputs ∧
      dispatchPayload (p.take (s.cfg.capacity - 1)) u = .next t ∧
      u.trace = s.trace ++ [.frame (p.take (s.cfg.capacity - 1))] ∧
      u.cfg = s.cfg ∧ u.colorR = s.colorR ∧ u.colorG = s.colorG ∧ u.colorB = s.colorB := by
  obtain ⟨ho, he, hw⟩ := hs
  rw [maxPayload_eq]
  have hp : (s.openFrame.appendAll p).payload = some (p.take s.cfg.maxPayload) :=
    State.payload_appendAll (State.payload_eq_nil (s := s.openFrame) hw) p
  obtain ⟨t, ht⟩ := dispatchPayload_completes (p.take s.cfg.maxPayload)
    ((s.openFrame.appendAll p).closeFrame.deliver (p.take s.cfg.maxPayload))
  have hend := (acceptByte_end _ _ (by simp) (by simpa using he) hp).trans ht
  obtain ⟨-, hto, hte, htw, -, hti, -, -⟩ := dispatchPayload_frame ht
  refine ⟨_, t, ?_, ⟨hto, ?_, htw⟩, ?_, ht, ?_, ?_, ?_, ?_, ?_⟩
  · rw [runBytes_append _ _ hrun, runBytes_cons _ hend, runBytes_nil]
  · simpa [he] using hte
  all_goals simp [hti]

/-! ### The obligations: whole frames -/

/-- Settles O48: the run of a frame is START and its stuffed payload, which is appended byte by byte, and END. -/
theorem longFramesAreTruncated : Obligations.LongFramesAreTruncated :=
  fun _ p hs => end_delivers_appended hs (runBytes_start_flatMap_stuff hs p)

/-- Settles O47: the first `CAPACITY - 1` bytes of a payload that fits are the payload. -/
theorem compliantFrameDeliversItsPayload : Obligations.CompliantFrameDeliversItsPayload := by
  intro s p hs hp
  have h := longFramesAreTruncated s p hs
  rwa [List.take_of_length_le hp] at h

/-- Settles O51: the second START is data, so one END delivers both payloads and the START between them. -/
theorem lostEndMergesTwoFrames : Obligations.LostEndMergesTwoFrames := by
  intro s p q hs
  have h := end_delivers_appended hs (runBytes_start_inside hs p q)
  rwa [List.append_assoc] at h

/-- Settles O52, by induction on the bytes. -/
theorem bytesOutsideAFrameAreIgnored : Obligations.BytesOutsideAFrameAreIgnored := by
  intro s bytes ho hb
  induction bytes with
  | nil => exact runBytes_nil s
  | cons b bytes ih =>
    obtain ⟨hne, hrest⟩ := List.ne_and_not_mem_of_not_mem_cons hb
    rw [runBytes_cons _ (acceptByte_idle_ignore s b ho hne.symm)]
    exact ih hrest

/-! ### The obligations: the six classes of a byte -/

/-- Settles O9. -/
theorem idleStartOpensAFrame : Obligations.IdleStartOpensAFrame := by
  intro s
  obtain ⟨hstart, -⟩ := inputByteClassesFollowTheDecodeTable s.frameOpen s.escapePending 0xFF
  exact ⟨fun ho => hstart ⟨ho, rfl⟩, rfl⟩

/-- Settles O10. -/
theorem idleBytesChangeNothing : Obligations.IdleBytesChangeNothing := by
  intro s b
  obtain ⟨-, hignore, -⟩ := inputByteClassesFollowTheDecodeTable s.frameOpen s.escapePending b
  exact ⟨fun ho hb => hignore ⟨ho, hb⟩, rfl⟩

/-- Settles O11. -/
theorem escapeIsArmed : Obligations.EscapeIsArmed := by
  intro s
  obtain ⟨-, -, -, hescape, -⟩ := inputByteClassesFollowTheDecodeTable s.frameOpen s.escapePending 0xFD
  exact ⟨fun ho he => hescape ⟨ho, he, rfl⟩, rfl⟩

/-- Settles O12: RX_DATA is `append`. -/
theorem dataByteIsStoredOrDropped : Obligations.DataByteIsStoredOrDropped := by
  intro s b
  obtain ⟨-, -, -, -, -, hdata, -⟩ := inputByteClassesFollowTheDecodeTable s.frameOpen s.escapePending b
  exact ⟨fun ho he hb => hdata ⟨ho, he, hb⟩, s.append b, rfl, s.append_eq_update b, s.append_stores b,
    s.append_drops b⟩

/-- Settles O13: RX_ESCAPED_LITERAL is `append` once the escape is cleared, which moves neither cursor nor buffer. -/
theorem escapedByteIsStoredVerbatimOrDropped : Obligations.EscapedByteIsStoredVerbatimOrDropped := by
  intro s b
  obtain ⟨-, -, hliteral, -⟩ := inputByteClassesFollowTheDecodeTable s.frameOpen s.escapePending b
  exact ⟨fun ho he => hliteral ⟨ho, he⟩, s.clearEscape.append b, rfl, s.clearEscape.append_eq_update b,
    s.clearEscape.append_stores b, s.clearEscape.append_drops b⟩

/-- Settles O14: in the cursor's range `MemRead(0, write_cursor)` is defined, and is what RX_END returns. -/
theorem endClosesTheFrameAndReturnsThePayload : Obligations.EndClosesTheFrameAndReturnsThePayload := by
  intro s h
  obtain ⟨-, -, -, -, hend, -⟩ := inputByteClassesFollowTheDecodeTable s.frameOpen s.escapePending 0xFE
  have hp := s.payload_eq_some (by rwa [maxPayload_eq] at h)
  refine ⟨fun ho he => hend ⟨ho, he, rfl⟩, ?_, _, (if_pos rfl).trans hp, by simp, fun i hi => by simp [hi]⟩
  rw [exec, execRxEnd, hp]
  rfl

/-! ### The obligations: markers inside a frame -/

/-- Settles O17: `FD FE` is `LIT(FE)`. -/
theorem escapedEndIsData : Obligations.EscapedEndIsData := by
  intro s ho he
  refine ⟨s.append 0xFE, runBytes_stuff ho he 0xFE, by simpa using ho, by simpa using he, by simp, fun h => ?_,
    s.append_drops 0xFE⟩
  obtain ⟨hcur, hread, -⟩ := s.append_stores 0xFE h
  exact ⟨hcur, hread⟩

/-- Settles O18: `FD FD` is `LIT(FD)`, which leaves no escape pending, so the third FD is an ESCAPE. -/
theorem secondEscapeIsDataAndThirdArms : Obligations.SecondEscapeIsDataAndThirdArms := by
  intro s ho he
  have htwo : runBytes s [0xFD, 0xFD] = .next (s.append 0xFD) := runBytes_stuff ho he 0xFD
  have hopen : (s.append 0xFD).frameOpen = true := by simpa using ho
  have hesc : (s.append 0xFD).escapePending = false := by simpa using he
  refine ⟨s.append 0xFD, htwo, ?_, hopen, hesc, by simp, fun h => ?_, s.append_drops 0xFD⟩
  · exact (runBytes_append _ [markEscape] htwo).trans (runBytes_cons [] (acceptByte_escape _ hopen hesc))
  · obtain ⟨hcur, hread, -⟩ := s.append_stores 0xFD h
    exact ⟨hcur, hread⟩

/-- Settles O20: an unescaped START in an open frame is RX_DATA. -/
theorem startInAnOpenFrameIsData : Obligations.StartInAnOpenFrameIsData := by
  intro s rest ho he hin
  have hstep : step s = .next ((s.withInputs rest).append markStart) :=
    (step_byte s markStart rest hin).trans
      (acceptByte_data (s.withInputs rest) markStart ho he (by decide) (by decide))
  exact ⟨_, hstep, by rwa [State.append_frameOpen], by rwa [State.append_escapePending],
    by rw [State.append_trace]; rfl, (s.withInputs rest).append_stores markStart,
    (s.withInputs rest).append_drops markStart⟩

/-- Settles O19: R30 (b) excludes the state, and without an open frame no class asks for a pending escape. -/
theorem unreachableStateFollowsTheTestOrder : Obligations.UnreachableStateFollowsTheTestOrder := by
  intro s b rest ho he hin
  have hstep := step_byte s b rest hin
  refine ⟨fun hi => ?_, fun hb => ?_, fun hb => ?_, fun c => ?_⟩
  · simp [hi.escape_open he] at ho
  · exact hstep.trans (acceptByte_idle_ignore _ b ho hb)
  · subst hb
    exact hstep.trans (acceptByte_idle_start _ ho)
  · rw [State.classify, he]
    exact decodeRx_escaped c

end Sys2Proof.Machine

/-! # The dispatcher (spec/41_command_dispatcher.md): the class of a payload, and what each class does -/

namespace Sys2Proof.Machine

/-! ### The six classes of a payload (R121) -/

/-- Opcodes 0x02 to 0xFF are the unknown ones (R127). -/
theorem two_le_toNat_iff {op : Byte} : 2 ≤ op.toNat ↔ op ≠ opSetColor ∧ op ≠ opGetColor := by
  constructor
  · intro h
    constructor <;>
    · rintro rfl
      exact absurd h (by decide)
  · rintro ⟨h0, h1⟩
    bv_omega

theorem payloadOpcode_eq_none {p : List Byte} (h : p.length < 2) : payloadOpcode p = none :=
  List.getElem?_eq_none (by omega)

@[simp] theorem payloadMessageType_cons (m : Byte) (p : List Byte) : payloadMessageType (m :: p) = some m := rfl

@[simp] theorem payloadOpcode_cons_cons (m op : Byte) (args : List Byte) :
    payloadOpcode (m :: op :: args) = some op := rfl

/-! ### What a payload of each class does (R122 to R127) -/

theorem dispatchPayload_eq_exec {p : List Byte} {s : State} {i : Instr}
    (h : decodePayload s.cfg.setLenPolicy p = i) : dispatchPayload p s = exec i s := by
  rw [dispatchPayload, h]

/-- The effects of R124 in the order of D10. -/
theorem exec_setLedColor (s : State) (r g b : Byte) (extra : List Byte) :
    exec (.setLedColor r g b extra) s = .next { s with
      colorR := r
      colorG := g
      colorB := b
      trace := s.trace ++ .apply r g b :: responseEvents s ackResult } := by
  rw [exec, execSetLedColor, State.encodeResponse_eq, State.setColor_trace, State.applyColor_trace, List.append_assoc]
  rfl

theorem exec_getLedColor (s : State) (args : List Byte) :
    exec (.getLedColor args) s = .next { s with
      trace := s.trace ++ responseEvents s (colorResult s.colorR s.colorG s.colorB) } := by
  rw [exec, execGetLedColor, State.encodeResponse_eq]
  rfl

/-! ### Response frames with and without a sink (R129) -/

theorem responseEvents_of_sink {s : State} (h : s.cfg.sinkPresent = true) (result : List Byte) :
    responseEvents s result = (responseBytes result).map .emit := if_pos h

theorem responseEvents_of_no_sink {s : State} (h : s.cfg.sinkPresent = false) (result : List Byte) :
    responseEvents s result = [] := by
  simp [responseEvents, h]

theorem DispatchTail.emit_notMem {s : State} {tail : List Event} (ht : DispatchTail s tail)
    (h : s.cfg.sinkPresent = false) (b : Byte) : .emit b ∉ tail := by
  cases ht with
  | silent => simp
  | set r g bl => simp [responseEvents_of_no_sink h]
  | get r g bl => simp [responseEvents_of_no_sink h]

/-! ### The obligations: the classes -/

/-- Settles O6, class by class: each row's condition excludes those of the other five. -/
theorem payloadClassesFollowTheDispatchOrder : Obligations.PayloadClassesFollowTheDispatchOrder := by
  intro policy p
  rcases decodePayload_cases policy p with ⟨hs, he⟩ | ⟨m, op, args, rfl, hm, he⟩ | ⟨r, g, b, extra, rfl, hx, he⟩ |
    ⟨args, rfl, hx, he⟩ | ⟨args, rfl, he⟩ | ⟨op, args, rfl, h1, h2, he⟩
  all_goals rw [he]
  · have hop := payloadOpcode_eq_none hs
    simp [Instr.mnemonic, hop, hs]
  · simp [Instr.mnemonic, hm]
  · rcases hx with rfl | rfl
    · simp [Instr.mnemonic]
    · have hlen : extra = [] ∨ 0 < extra.length := by cases extra <;> simp
      simp [Instr.mnemonic, hlen]
  · rcases hx with hlt | ⟨hgt, rfl⟩
    · have hshort : args.length ≠ 3 ∧ ¬4 ≤ args.length ∧ args.length + 1 + 1 < 5 := by omega
      simp [Instr.mnemonic, hshort]
    · have hlong : args.length ≠ 3 ∧ 4 ≤ args.length := by omega
      simp [Instr.mnemonic, hlong]
  · simp [Instr.mnemonic]
  · simp [Instr.mnemonic, h1, h2, two_le_toNat_iff]

/-- Settles O21: the four ignore classes are `exec`'s identity arms, and each condition names one of them. -/
theorem ignoredPayloadsHaveNoEffect : Obligations.IgnoredPayloadsHaveNoEffect := by
  intro s m op args p
  refine ⟨rfl, rfl, rfl, rfl, fun hp => ?_, fun hm => ?_, fun hx => ?_, fun hop => ?_⟩
  · exact dispatchPayload_eq_exec (decodePayload_short _ p hp)
  · exact dispatchPayload_eq_exec (decodePayload_notRequest _ op args hm)
  · exact dispatchPayload_eq_exec (decodePayload_setLedColorBadlen (setArgsAccepted_eq_false_iff.2 hx))
  · obtain ⟨h1, h2⟩ := two_le_toNat_iff.1 hop
    exact dispatchPayload_eq_exec (decodePayload_unknown _ args h1 h2)

/-- Settles O22. -/
theorem setAppliesStoresAndAcknowledges : Obligations.SetAppliesStoresAndAcknowledges := fun s r g b extra =>
  ⟨exec_setLedColor s r g b extra,
    fun hx => dispatchPayload_eq_exec (decodePayload_setLedColor r g b (setArgsAccepted_extra_iff.2 hx))⟩

/-- Settles O23. -/
theorem getRepliesTheColour : Obligations.GetRepliesTheColour := fun s args =>
  ⟨exec_getLedColor s args, dispatchPayload_eq_exec (decodePayload_get _ args)⟩

/-! ### Compliant requests from rest (R199) -/

/-- A SET request from rest (R124). -/
theorem runBytes_requestSet {s : State} (hs : s.AtRest) (hc : 6 ≤ s.cfg.capacity) (r g b : Byte) :
    ∃ t, runBytes s (requestSet r g b) = .next t ∧ t.AtRest ∧ t.cfg = s.cfg ∧
      t.colorR = r ∧ t.colorG = g ∧ t.colorB = b ∧
      t.trace = s.trace ++ .frame [0x00, 0x00, r, g, b] :: .apply r g b :: responseEvents s ackResult := by
  obtain ⟨u, t, hrun, ht, -, hd, htr, hcfg, -⟩ := compliantFrameDeliversItsPayload s [0x00, 0x00, r, g, b] hs
    (Nat.le_sub_one_of_lt hc)
  obtain ⟨-, hdispatch⟩ := setAppliesStoresAndAcknowledges u r g b []
  rw [hdispatch (.inl rfl), exec_setLedColor] at hd
  cases hd
  refine ⟨_, hrun, ht, hcfg, rfl, rfl, rfl, ?_⟩
  simp [htr, responseEvents, hcfg]

/-- A GET request from rest (R126). -/
theorem runBytes_requestGet {s : State} (hs : s.AtRest) (hc : 3 ≤ s.cfg.capacity) :
    ∃ t, runBytes s requestGet = .next t ∧ t.AtRest ∧
      t.colorR = s.colorR ∧ t.colorG = s.colorG ∧ t.colorB = s.colorB ∧
      t.trace = s.trace ++ .frame [0x00, 0x01] :: responseEvents s (colorResult s.colorR s.colorG s.colorB) := by
  obtain ⟨u, t, hrun, ht, -, hd, htr, hcfg, hr, hg, hb⟩ := compliantFrameDeliversItsPayload s [0x00, 0x01] hs
    (Nat.le_sub_one_of_lt hc)
  obtain ⟨-, hdispatch⟩ := getRepliesTheColour u []
  rw [hdispatch, exec_getLedColor] at hd
  cases hd
  refine ⟨_, hrun, ht, hr, hg, hb, ?_⟩
  simp [htr, responseEvents, hcfg, hr, hg, hb]

/-! ### The obligations: whole steps and runs -/

/-- Settles O36: a step's events begin `Frame(p)` and a tail of R154, whose bytes are those of a response frame. -/
theorem withoutASinkNothingIsEmitted : Obligations.WithoutASinkNothingIsEmitted := by
  intro s t b hsink h
  rcases step_events h with he | ⟨p, tail, es, -, ht, hes, he⟩
  · simp [stepEvents, he]
  · rw [stepEvents_of_trace_append he]
    intro hmem
    rcases List.mem_cons.1 (hes.subset hmem) with hframe | htail
    · cases hframe
    · exact ht.emit_notMem hsink b htail

/-- Settles O50: the SET's run leaves the decoder at rest with the colour that the GET's run reports. -/
theorem setThenGetReportsTheColour : Obligations.SetThenGetReportsTheColour := by
  intro s r g b hs hc hsink
  obtain ⟨u, hset, hu, hcfg, rfl, rfl, rfl, htru⟩ := runBytes_requestSet hs hc r g b
  obtain ⟨t, hget, ht, hr, hg, hb, htrt⟩ := runBytes_requestGet hu (by rw [hcfg]; omega)
  refine ⟨t, (runBytes_append _ _ hset).trans hget, ht, hr, hg, hb, ?_⟩
  rw [htrt, htru, responseEvents_of_sink hsink, responseEvents_of_sink (by rwa [hcfg]), List.append_assoc]
  rfl

end Sys2Proof.Machine

/-! # The frame encoder (spec/42_frame_encoder.md): the two response frames, and a reply read by a decoder -/

namespace Sys2Proof.Machine

/-! ### Replies as frames (R143) -/

theorem flatMap_stuff_of_no_marker {p : List Byte} (h : ∀ x ∈ p, isMarker x = false) : p.flatMap stuff = p := by
  have hstuff : ∀ x ∈ p, stuff x = [x] := fun x hx => by simp [stuff, h x hx]
  rw [List.flatMap_congr hstuff, List.flatMap_singleton']

/-- The encoder stuffs nothing, which is what a compliant sender does with a payload that has no marker. -/
theorem responseBytes_eq_frameBytes {q : List Byte} (h : ∀ x ∈ q, isMarker x = false) :
    responseBytes q = frameBytes (typeResponse :: q) := by
  have htag : ∀ x ∈ typeResponse :: q, isMarker x = false := List.forall_mem_cons.2 ⟨rfl, h⟩
  rw [frameBytes, flatMap_stuff_of_no_marker htag]
  rfl

/-- A payload that begins with the RESPONSE tag is no request: alone it is short (R122), else of another type (R123). -/
theorem dispatchPayload_response (s : State) (q : List Byte) : dispatchPayload (typeResponse :: q) s = .next s := by
  cases q with
  | nil => exact dispatchPayload_eq_exec (decodePayload_short _ [typeResponse] (by decide))
  | cons op args => exact dispatchPayload_eq_exec (decodePayload_notRequest _ op args (by decide))

/-- A reply without a marker that fits the buffer, from rest: delivered whole, tag first, and ignored. -/
theorem runBytes_responseBytes {s : State} {q : List Byte} (hs : s.AtRest) (hlen : q.length + 2 ≤ s.cfg.capacity)
    (hq : ∀ x ∈ q, isMarker x = false) :
    ∃ t, runBytes s (responseBytes q) = .next t ∧ t.AtRest ∧
      t.colorR = s.colorR ∧ t.colorG = s.colorG ∧ t.colorB = s.colorB ∧
      t.trace = s.trace ++ [.frame (typeResponse :: q)] := by
  obtain ⟨u, t, hrun, ht, -, hd, htr, -, hr, hg, hb⟩ :=
    compliantFrameDeliversItsPayload s (typeResponse :: q) hs (Nat.le_sub_one_of_lt hlen)
  rw [dispatchPayload_response] at hd
  cases hd
  exact ⟨u, by rwa [responseBytes_eq_frameBytes hq], ht, hr, hg, hb, htr⟩

/-! ### The obligations -/

/-- Settles O53: the reply is a marker-free one of three result bytes. -/
theorem repliesWithoutMarkersAreRecovered : Obligations.RepliesWithoutMarkersAreRecovered := by
  intro s r g b hs hc hr hg hb
  exact runBytes_responseBytes (q := colorResult r g b) hs hc (by simp [colorResult, hr, hg, hb])

/-- Settles O54: cut at its red byte, which is END, the reply is one without result bytes. -/
theorem replyWithEndAsRedIsMisframed : Obligations.ReplyWithEndAsRedIsMisframed := by
  intro s g b hs hc
  have hcut : (responseBytes (colorResult 0xFE g b)).take 3 = responseBytes [] := rfl
  obtain ⟨t, hrun, ht, -, -, -, htr⟩ := runBytes_responseBytes (q := []) hs hc (by simp)
  exact ⟨t, by rwa [hcut], ht, htr⟩

/-- Settles O24. -/
theorem acknowledgementFrame : Obligations.AcknowledgementFrame := fun s =>
  congrArg Host.Outcome.next (s.encodeResponse_eq ackResult)

/-- Settles O25: `responseBytes` puts the result bytes between tag and END as they are. -/
theorem colourReplyFrameIsNotEscaped : Obligations.ColourReplyFrameIsNotEscaped := fun s r g b =>
  congrArg Host.Outcome.next (s.encodeResponse_eq (colorResult r g b))

end Sys2Proof.Machine

/-! # The sequencer (spec/43_sequencer.md): the step of END, the events of a byte and of a repeated frame, the ports -/

namespace Sys2Proof.Machine

/-! ### The events of a byte, with the colours before the step (R154) -/

/-- The END case of `acceptByte_cases`, with the tail that each kind of payload appends; no other byte has an event. -/
theorem acceptByte_tails {s t : State} {b : Byte} (h : acceptByte b s = .next t) :
    t.trace = s.trace ∨
    ∃ p tail, t.trace = s.trace ++ .frame p :: tail ∧
      (tail = [] ∨ (∃ r g c, tail = .apply r g c :: responseEvents s ackResult) ∨
        tail = responseEvents s (colorResult s.colorR s.colorG s.colorB)) := by
  rcases acceptByte_cases h with ⟨-, -, rfl⟩ | ⟨-, -, rfl⟩ | ⟨-, -, rfl⟩ | ⟨-, -, -, rfl⟩ |
    ⟨-, -, -, p, -, hd⟩ | ⟨-, -, -, -, rfl⟩
  · exact .inl rfl
  · exact .inl rfl
  · exact .inl (by simp)
  · exact .inl rfl
  · rcases dispatchPayload_cases s.cfg.setLenPolicy p with hc | ⟨r, g, c, extra, -, -, hc⟩ | ⟨args, -, hc⟩
    all_goals
      rw [hc (s.closeFrame.deliver p) rfl] at hd
      cases hd
    · exact .inr ⟨p, [], rfl, .inl rfl⟩
    · exact .inr ⟨p, _, List.append_assoc .., .inr (.inl ⟨r, g, c, rfl⟩)⟩
    · exact .inr ⟨p, _, List.append_assoc .., .inr (.inr rfl)⟩
  · exact .inl (by simp)

/-! ### A payload dispatched again (R160) -/

/-- The colours that one dispatch leaves are those with which a second one of the same payload has the same events: a
SET's events do not depend on them, and a GET does not change them. -/
theorem dispatchPayload_again {p : List Byte} {s t s' t' : State} (h : dispatchPayload p s = .next t)
    (h' : dispatchPayload p s' = .next t') (hcfg : s'.cfg = s.cfg) (hr : s'.colorR = t.colorR)
    (hg : s'.colorG = t.colorG) (hb : s'.colorB = t.colorB) :
    ∃ tail, t.trace = s.trace ++ tail ∧ t'.trace = s'.trace ++ tail := by
  have hresp : ∀ result, responseEvents s' result = responseEvents s result := fun result => by
    rw [responseEvents, responseEvents, hcfg]
  rcases dispatchPayload_cases s.cfg.setLenPolicy p with hc | ⟨r, g, b, extra, -, -, hc⟩ | ⟨args, -, hc⟩
  all_goals
    rw [hc s rfl] at h
    rw [hc s' (by rw [hcfg])] at h'
    cases h
    cases h'
  · exact ⟨[], by simp, by simp⟩
  · exact ⟨_, rfl, by rw [hresp]⟩
  · exact ⟨_, rfl, by rw [hresp, hr, hg, hb]⟩

/-! ### What the ports show of a list of events (R153, R156) -/

/-- Has the event a port? `Frame` has none (R153). -/
def Event.onPort : Event → Bool
  | .frame _ => false
  | .apply _ _ _ => true
  | .emit _ => true

/-- The colour that an `Apply` carries. -/
def Event.applied : Event → Option (Byte × Byte × Byte)
  | .apply r g b => some (r, g, b)
  | .frame _ => none
  | .emit _ => none

/-- The byte that an `Emit` carries. -/
def Event.emitted : Event → Option Byte
  | .emit b => some b
  | .frame _ => none
  | .apply _ _ _ => none

theorem Event.present_lowReady_oneValid {e : Event} {o : PortOut} (h : e.present = some o) :
    o.rxReady = false ∧ (o.applyValid = true ↔ o.txValid = false) := by
  cases e with
  | frame p => cases h
  | apply r g b =>
    cases h
    exact ⟨rfl, iff_of_true rfl rfl⟩
  | emit b =>
    cases h
    exact ⟨rfl, iff_of_false nofun nofun⟩

/-- Of the events only an `Emit` raises `tx_valid`. -/
theorem Event.exists_emit_of_present_txValid {e : Event} {o : PortOut} (h : e.present = some o)
    (htx : o.txValid = true) : ∃ b, e = .emit b := by
  cases e with
  | frame p => cases h
  | apply r g b =>
    cases h
    cases htx
  | emit b => exact ⟨b, rfl⟩

theorem event_of_present (es : List Event) :
    (es.filterMap Event.present).map PortOut.event = (es.filter Event.onPort).map some := by
  induction es with
  | nil => rfl
  | cons e es ih =>
    cases e with
    | frame p => exact ih
    | apply r g b => exact congrArg (some (.apply r g b) :: ·) ih
    | emit b => exact congrArg (some (.emit b) :: ·) ih

theorem apply_of_present (es : List Event) :
    (es.filterMap Event.present).filterMap PortOut.apply = es.filterMap Event.applied := by
  rw [List.filterMap_filterMap]
  exact List.filterMap_congr fun e _ => by cases e <;> rfl

theorem tx_of_present (es : List Event) :
    (es.filterMap Event.present).filterMap PortOut.tx = es.filterMap Event.emitted := by
  rw [List.filterMap_filterMap]
  exact List.filterMap_congr fun e _ => by cases e <;> rfl

/-! ### What the ports show of a step (R155, R156) -/

theorem stepEvents_of_trace_eq {s t : State} (h : t.trace = s.trace) : stepEvents s t = [] := by
  simp [stepEvents, h]

/-- The transfer with `rst` high that ends a step cut short by a reset (70_reset_and_hazards.md R192). -/
def State.portsOfCut (s : State) : List PortOut :=
  match s.inputs.head? with
  | some (.byteCut _) => [portsInReset (Config.freeReady s.endpoint s.draws)]
  | _ => []

/-- Where nothing is accepted there is no event to present. -/
theorem portsOfStep_of_not_reset {s t : State} (h : step s = .next t)
    (hn : ∀ offered, s.inputs.head? ≠ some (.reset offered)) :
    portsOfStep s t =
      portsReady :: ((stepEvents s t).filterMap Event.present ++ (s.portsOfCut ++ [portsReady])) := by
  rcases step_cases h with ⟨hi, rfl⟩ | ⟨rest, hi, rfl⟩ | ⟨b, rest, hi, -⟩ | ⟨o, rest, hi, -⟩ | ⟨b, rest, w, hi, -, -⟩
  · simp [portsOfStep, portsOfTransfer, State.portsOfCut, hi, stepEvents_of_trace_eq]
  · simp [portsOfStep, portsOfTransfer, State.portsOfCut, hi, stepEvents_of_trace_eq]
  · simp [portsOfStep, portsOfTransfer, State.portsOfCut, hi]
  · exact absurd (by simp [hi]) (hn o)
  · simp [portsOfStep, portsOfTransfer, State.portsOfCut, hi]

theorem portsOfStep_of_reset {s t : State} {offered : Option Byte} (h : step s = .next t)
    (hr : s.inputs.head? = some (.reset offered)) :
    stepEvents s t = [] ∧ portsOfStep s t = [portsInReset (Config.freeReady s.endpoint s.draws), portsReady] := by
  obtain ⟨rest, hi⟩ := List.head?_eq_some_iff.1 hr
  rw [step_reset s offered rest hi] at h
  cases h
  exact ⟨stepEvents_of_trace_eq rfl, by simp [portsOfStep, portsOfTransfer, hi]⟩

theorem State.portsOfCut_eq_nil {s : State} (h : ∀ b, s.inputs.head? ≠ some (.byteCut b)) : s.portsOfCut = [] := by
  unfold State.portsOfCut
  split
  · exact absurd ‹_› (h _)
  · rfl

theorem State.exists_of_mem_portsOfCut {s : State} {o : PortOut} (h : o ∈ s.portsOfCut) :
    ∃ ready, o = portsInReset ready := by
  unfold State.portsOfCut at h
  split at h
  · exact ⟨_, List.mem_singleton.1 h⟩
  · cases h

theorem State.portsOfCut_of_byteCut {s : State} {b : Byte} (h : s.inputs.head? = some (.byteCut b)) :
    s.portsOfCut = [portsInReset (Config.freeReady s.endpoint s.draws)] := by
  simp [State.portsOfCut, h]

/-- `tx_valid` rises for an `Emit` of the step and for nothing else. -/
theorem exists_emit_of_mem_portsOfStep {s t : State} {o : PortOut} (h : step s = .next t) (ho : o ∈ portsOfStep s t)
    (htx : o.txValid = true) : ∃ b, .emit b ∈ stepEvents s t := by
  have hready : o ≠ portsReady := by
    rintro rfl
    cases htx
  have hreset : ∀ ready, o ≠ portsInReset ready := by
    rintro ready rfl
    cases htx
  by_cases hn : ∀ offered, s.inputs.head? ≠ some (.reset offered)
  · have hcut : o ∉ s.portsOfCut := fun hmem => by
      obtain ⟨ready, rfl⟩ := State.exists_of_mem_portsOfCut hmem
      exact hreset ready rfl
    have hevent : o ∈ (stepEvents s t).filterMap Event.present := by
      simpa [portsOfStep_of_not_reset h hn, hready, hcut] using ho
    obtain ⟨e, he, hpres⟩ := List.mem_filterMap.1 hevent
    obtain ⟨b, rfl⟩ := Event.exists_emit_of_present_txValid hpres htx
    exact ⟨b, he⟩
  · push Not at hn
    obtain ⟨offered, hr⟩ := hn
    obtain ⟨-, hports⟩ := portsOfStep_of_reset h hr
    simp [hports, hready, hreset] at ho

/-! ### The obligations -/

/-- Settles O31: the payload below the cursor fits the buffer, so it decodes, and its dispatch is `exec` of its class. -/
theorem stepOnEndDeliversThenDispatches : Obligations.StepOnEndDeliversThenDispatches := by
  intro s rest ho he hin hcur
  rw [maxPayload_eq] at hcur
  have hp := s.payload_eq_some hcur
  have hlen := State.payload_length_le hp
  refine ⟨_, _, hp, decode_req_eq_instr_iff.2 ⟨hlen, rfl⟩, wellFormed_decodePayload hlen, ?_⟩
  rw [step_byte s _ rest hin]
  exact acceptByte_end { s with inputs := rest } _ ho he hp

/-- Settles O33. -/
theorem eventsOfAByteStep : Obligations.EventsOfAByteStep := by
  intro s t b rest hin h
  rw [step_byte s b rest hin] at h
  exact acceptByte_tails (s := { s with inputs := rest }) h

/-- Settles O37: the ports of a step are those of its acceptance, its events and its reset, and each event is shown by
its own transfer. -/
theorem portsPresentEachEventOnceInOrder : Obligations.PortsPresentEachEventOnceInOrder := by
  intro s t h
  refine ⟨fun hn => ⟨(stepEvents s t).filterMap Event.present, s.portsOfCut, portsOfStep_of_not_reset h hn, ?_,
    event_of_present _, apply_of_present _, tx_of_present _, State.portsOfCut_eq_nil, ?_⟩, ?_, ?_⟩
  · intro o ho
    obtain ⟨e, -, hpres⟩ := List.mem_filterMap.1 ho
    exact Event.present_lowReady_oneValid hpres
  · rintro ⟨b, hb⟩
    exact ⟨_, State.portsOfCut_of_byteCut hb⟩
  · rintro ⟨offered, hr⟩
    obtain ⟨hnone, hports⟩ := portsOfStep_of_reset h hr
    exact ⟨hnone, _, hports⟩
  · intro hsink o ho
    refine Bool.eq_false_iff.2 fun htx => ?_
    obtain ⟨b, hb⟩ := exists_emit_of_mem_portsOfStep h ho htx
    exact withoutASinkNothingIsEmitted s t b hsink h hb

/-- Settles O49: both runs deliver the same payload, and the second dispatches it with the colours the first left. -/
theorem repeatedFramesAnswerAlike : Obligations.RepeatedFramesAnswerAlike := by
  intro s t u p hs hst htu
  obtain ⟨s1, t', hrun1, ht, -, hd1, htr1, hcfg1, -⟩ := longFramesAreTruncated s p hs
  rw [hst] at hrun1
  cases hrun1
  obtain ⟨s2, u', hrun2, -, -, hd2, htr2, hcfg2, hr, hg, hb⟩ := longFramesAreTruncated t p ht
  rw [htu] at hrun2
  cases hrun2
  obtain ⟨hcfg, -⟩ := dispatchPayload_frame hd1
  have hcap : t.cfg = s.cfg := hcfg.trans hcfg1
  rw [hcap] at hd2 htr2
  obtain ⟨tail, htail1, htail2⟩ := dispatchPayload_again hd1 hd2 (hcfg2.trans hcfg) hr hg hb
  refine ⟨.frame (p.take (s.cfg.capacity - 1)) :: tail, ?_, ?_⟩
  · rw [htail1, htr1, List.append_assoc, List.singleton_append]
  · rw [htail2, htr2, List.append_assoc, List.singleton_append]

end Sys2Proof.Machine

/-! # Exceptions (spec/60_exceptions.md): no step stops, the silently handled conditions, and several endpoints -/

namespace Sys2Proof.Machine

/-! ### No step of a state of the block stops (R170) -/

/-- R30 (a) keeps the cursor where `MemRead(0, write_cursor)` is defined, so an END, too, completes. -/
theorem State.Inv.acceptByte_completes {s : State} (hi : s.Inv) (b : Byte) : ∃ t, Machine.acceptByte b s = .next t := by
  by_contra hstop
  obtain ⟨-, -, -, hnone⟩ := acceptByte_stops fun t ht => hstop ⟨t, ht⟩
  have hcur : s.writeCursor.toNat ≤ s.cfg.maxPayload := hi.cursor_le
  rw [s.payload_eq_some hcur] at hnone
  cases hnone

/-- Settles O43, transfer by transfer: only an accepted byte could stop. -/
theorem noStepStops : Obligations.NoStepStops := by
  intro s hi
  rcases hin : s.inputs with _ | ⟨u, rest⟩
  · exact ⟨s, step_nil s hin⟩
  have hbyte := (hi.withInputs rest).acceptByte_completes
  cases u with
  | idle => exact ⟨_, step_idle s rest hin⟩
  | byte b =>
    obtain ⟨t, ht⟩ := hbyte b
    exact ⟨t, (step_byte s b rest hin).trans ht⟩
  | reset offered => exact ⟨_, step_reset s offered rest hin⟩
  | byteCut b =>
    obtain ⟨whole, hwhole⟩ := hbyte b
    exact ⟨_, (step_cut s b rest hin).trans (acceptByteCut_of_next hwhole)⟩

/-! ### The causes of the conditions (R171) -/

/-- Where each condition of a byte comes from: the byte's class (Q1, Q2), or the payload it delivers. -/
theorem mem_byteConditions (s : State) (b : Byte) (c : Condition) :
    c ∈ byteConditions s b ↔
      (c = .ignIdle ∧ s.frameOpen = false ∧ b ≠ markStart) ∨
      (c = .dropOverflow ∧ s.frameOpen = true ∧ (s.escapePending = true ∨ b ≠ markEscape ∧ b ≠ markEnd) ∧
        s.cfg.capacity - 1 ≤ s.writeCursor.toNat) ∨
      ∃ p, s.Delivers b p ∧ c ∈ conditionsOf s (decodePayload s.cfg.setLenPolicy p) := by
  unfold State.Delivers
  cases ho : s.frameOpen
  · by_cases hb : b = markStart
    · subst hb
      simp [byteConditions_start s ho]
    · simp [byteConditions_idle s b ho hb, hb]
  · cases he : s.escapePending
    · by_cases h1 : b = markEscape
      · subst h1
        have hne : markEscape ≠ markEnd := by decide
        simp [byteConditions_escape s ho he, hne]
      · by_cases h2 : b = markEnd
        · subst h2
          rw [byteConditions_end s ho he]
          cases s.payload <;> simp
        · simp [byteConditions_data s b ho he h1 h2, mem_overflow, h1, h2]
    · simp [byteConditions_escaped s b ho he, mem_overflow]

/-- The conditions of a delivered payload, by the classes of R121. -/
theorem mem_conditionsOf_decodePayload (s : State) (p : List Byte) (c : Condition) :
    c ∈ conditionsOf s (decodePayload s.cfg.setLenPolicy p) ↔
      (c = .ignShort ∧ p.length < 2) ∨
      (c = .ignType ∧ 2 ≤ p.length ∧ payloadMessageType p ≠ some 0x00) ∨
      (c = .ignOpcode ∧ payloadMessageType p = some 0x00 ∧ ∃ op, payloadOpcode p = some op ∧ 0x02 ≤ op.toNat) ∨
      (c = .ignSetLen ∧ payloadMessageType p = some 0x00 ∧ payloadOpcode p = some 0x00 ∧
        (p.length < 5 ∨ 5 < p.length ∧ s.cfg.setLenPolicy = .exact)) ∨
      (c = .sinkAbsent ∧ s.cfg.sinkPresent = false ∧ payloadMessageType p = some 0x00 ∧
        (payloadOpcode p = some 0x01 ∨
          payloadOpcode p = some 0x00 ∧ (p.length = 5 ∨ 5 < p.length ∧ s.cfg.setLenPolicy = .atLeast))) := by
  obtain ⟨hshort, htype, hset, hbad, hget, hop⟩ := payloadClassesFollowTheDispatchOrder s.cfg.setLenPolicy p
  rw [← hshort, ← htype, ← hbad, ← hop, and_or_left (a := payloadMessageType p = _), ← hget, ← hset]
  rcases decodePayload_cases s.cfg.setLenPolicy p with ⟨-, he⟩ | ⟨m, op, args, -, -, he⟩ | ⟨r, g, b, x, -, -, he⟩ |
    ⟨args, -, -, he⟩ | ⟨args, -, he⟩ | ⟨op, args, -, -, -, he⟩
  all_goals simp [he, conditionsOf, Instr.mnemonic, mem_noSink]

theorem ignIdle_mem_byteConditions (s : State) (b : Byte) :
    .ignIdle ∈ byteConditions s b ↔ s.frameOpen = false ∧ b ≠ markStart := by
  simp [mem_byteConditions, mem_conditionsOf_decodePayload]

theorem dropOverflow_mem_byteConditions (s : State) (b : Byte) :
    .dropOverflow ∈ byteConditions s b ↔
      s.frameOpen = true ∧ (s.escapePending = true ∨ b ≠ markEscape ∧ b ≠ markEnd) ∧
        s.cfg.capacity - 1 ≤ s.writeCursor.toNat := by
  simp [mem_byteConditions, mem_conditionsOf_decodePayload]

/-- An instruction meets at most one condition. -/
theorem conditionsOf_length_le (s : State) (i : Instr) : (conditionsOf s i).length ≤ 1 := by
  have hoverflow : s.overflow.length ≤ 1 := by
    unfold State.overflow
    split <;> simp
  have hsink : s.noSink.length ≤ 1 := by
    unfold State.noSink
    split <;> simp
  cases i <;> simp [conditionsOf, hoverflow, hsink]

/-- So does a byte: RX_END, the one class that delivers a payload, meets none itself. -/
theorem byteConditions_length_le (s : State) (b : Byte) : (byteConditions s b).length ≤ 1 := by
  unfold byteConditions State.returned
  by_cases hend : s.classify b = .rxEnd
  · rw [hend, if_pos rfl]
    cases s.payload with
    | none => simp [conditionsOf]
    | some p => exact conditionsOf_length_le s _
  · simpa [hend] using conditionsOf_length_le s (s.classify b)

/-- Q3 to Q6 belong to a delivered payload. -/
theorem exists_delivers_of_ofDispatcher {s : State} {b : Byte} {c : Condition} (hc : c ∈ byteConditions s b)
    (hd : c.ofDispatcher = true) :
    ∃ p, s.Delivers b p ∧ c ∈ conditionsOf s (decodePayload s.cfg.setLenPolicy p) := by
  rcases (mem_byteConditions s b c).1 hc with ⟨rfl, -⟩ | ⟨rfl, -⟩ | hp
  · cases hd
  · cases hd
  · exact hp

/-! ### What the step does under a condition (R171) -/

theorem step_of_ignIdle {s : State} {b : Byte} {rest : List Transfer} (hin : s.inputs = .byte b :: rest)
    (hc : .ignIdle ∈ byteConditions s b) : step s = .next { s with inputs := rest } := by
  obtain ⟨ho, hb⟩ := (ignIdle_mem_byteConditions s b).1 hc
  exact (step_byte s b rest hin).trans (acceptByte_idle_ignore { s with inputs := rest } b ho hb)

/-- A dropped byte leaves only the escape cleared, which a data byte has found cleared. -/
theorem step_of_dropOverflow {s : State} {b : Byte} {rest : List Transfer} (hin : s.inputs = .byte b :: rest)
    (hc : .dropOverflow ∈ byteConditions s b) :
    step s = .next { s with inputs := rest, escapePending := false } := by
  obtain ⟨ho, hclass, hfull⟩ := (dropOverflow_mem_byteConditions s b).1 hc
  have hdrop := (s.withInputs rest).clearEscape.append_drops b hfull
  rw [step_byte s b rest hin]
  by_cases he : s.escapePending = true
  · exact (acceptByte_escaped (s.withInputs rest) b ho he).trans (congrArg _ hdrop)
  · obtain ⟨h1, h2⟩ := hclass.resolve_left he
    have he' : s.escapePending = false := by simpa using he
    have hclear : (s.withInputs rest).clearEscape = s.withInputs rest := by
      rw [State.clearEscape, ← he']
      rfl
    exact (acceptByte_data (s.withInputs rest) b ho he' h1 h2).trans (congrArg _ (hclear ▸ hdrop))

theorem step_of_delivers {s : State} {b : Byte} {p : List Byte} {rest : List Transfer}
    (hin : s.inputs = .byte b :: rest) (hp : s.Delivers b p) :
    step s = dispatchPayload p { s with
      inputs := rest
      frameOpen := false
      writeCursor := 0
      trace := s.trace ++ [.frame p] } := by
  obtain ⟨ho, he, rfl, hpay⟩ := hp
  exact (step_byte s _ rest hin).trans (acceptByte_end { s with inputs := rest } p ho he hpay)

/-- R122, R123, R125, R127: a payload with one of Q3 to Q6 has no effect. -/
theorem dispatchPayload_of_ofDispatcher {s : State} {p : List Byte} {c : Condition}
    (hc : c ∈ conditionsOf s (decodePayload s.cfg.setLenPolicy p)) (hd : c.ofDispatcher = true) (u : State)
    (hcfg : u.cfg = s.cfg) : dispatchPayload p u = .next u := by
  rw [← hcfg] at hc
  have hreply : c ∉ s.noSink := fun hmem => by
    obtain ⟨rfl, -⟩ := (mem_noSink s c).1 hmem
    cases hd
  rcases decodePayload_cases u.cfg.setLenPolicy p with ⟨-, he⟩ | ⟨m, op, args, -, -, he⟩ | ⟨r, g, b, x, -, -, he⟩ |
    ⟨args, -, -, he⟩ | ⟨args, -, he⟩ | ⟨op, args, -, -, -, he⟩
  · exact dispatchPayload_eq_exec he
  · exact dispatchPayload_eq_exec he
  · rw [he] at hc
    exact absurd hc hreply
  · exact dispatchPayload_eq_exec he
  · rw [he] at hc
    exact absurd hc hreply
  · exact dispatchPayload_eq_exec he

/-- R129: without a sink a GET does nothing, and a SET applies and stores its colour. -/
theorem dispatchPayload_of_sinkAbsent {s : State} {p : List Byte}
    (hc : .sinkAbsent ∈ conditionsOf s (decodePayload s.cfg.setLenPolicy p)) :
    (∃ args, p = typeRequest :: opGetColor :: args ∧ ∀ u : State, u.cfg = s.cfg → dispatchPayload p u = .next u) ∨
    ∃ r g b extra, p = typeRequest :: opSetColor :: r :: g :: b :: extra ∧
      ∀ u : State, u.cfg = s.cfg → dispatchPayload p u = .next { u with
        colorR := r
        colorG := g
        colorB := b
        trace := u.trace ++ [.apply r g b] } := by
  rcases decodePayload_cases s.cfg.setLenPolicy p with ⟨-, he⟩ | ⟨m, op, args, -, -, he⟩ | ⟨r, g, b, x, rfl, -, he⟩ |
    ⟨args, -, -, he⟩ | ⟨args, rfl, he⟩ | ⟨op, args, -, -, -, he⟩
  all_goals rw [he] at hc
  · simp [conditionsOf] at hc
  · simp [conditionsOf] at hc
  · obtain ⟨-, hsink⟩ := (mem_noSink s _).1 hc
    refine .inr ⟨r, g, b, x, rfl, fun u hcfg => ?_⟩
    rw [← hcfg] at he hsink
    rw [dispatchPayload_eq_exec he, exec_setLedColor, responseEvents_of_no_sink hsink]
  · simp [conditionsOf] at hc
  · obtain ⟨-, hsink⟩ := (mem_noSink s _).1 hc
    refine .inl ⟨args, rfl, fun u hcfg => ?_⟩
    rw [← hcfg] at he hsink
    rw [dispatchPayload_eq_exec he, exec_getLedColor, responseEvents_of_no_sink hsink, List.append_nil]
  · simp [conditionsOf] at hc

theorem step_of_ofDispatcher {s : State} {b : Byte} {c : Condition} {rest : List Transfer}
    (hin : s.inputs = .byte b :: rest) (hc : c ∈ byteConditions s b) (hd : c.ofDispatcher = true) :
    ∃ p, s.Delivers b p ∧ step s = .next { s with
      inputs := rest
      frameOpen := false
      writeCursor := 0
      trace := s.trace ++ [.frame p] } := by
  obtain ⟨p, hp, hmem⟩ := exists_delivers_of_ofDispatcher hc hd
  exact ⟨p, hp, (step_of_delivers hin hp).trans (dispatchPayload_of_ofDispatcher hmem hd _ rfl)⟩

theorem step_of_sinkAbsent {s : State} {b : Byte} {rest : List Transfer} (hin : s.inputs = .byte b :: rest)
    (hc : .sinkAbsent ∈ byteConditions s b) :
    (∃ args, s.Delivers b (0x00 :: 0x01 :: args) ∧ step s = .next { s with
      inputs := rest
      frameOpen := false
      writeCursor := 0
      trace := s.trace ++ [.frame (0x00 :: 0x01 :: args)] }) ∨
    ∃ r g c extra, s.Delivers b (0x00 :: 0x00 :: r :: g :: c :: extra) ∧ step s = .next { s with
      inputs := rest
      frameOpen := false
      writeCursor := 0
      colorR := r
      colorG := g
      colorB := c
      trace := s.trace ++ [.frame (0x00 :: 0x00 :: r :: g :: c :: extra), .apply r g c] } := by
  rcases (mem_byteConditions s b _).1 hc with ⟨hne, -⟩ | ⟨hne, -⟩ | ⟨p, hp, hmem⟩
  · cases hne
  · cases hne
  have hstep := step_of_delivers hin hp
  rcases dispatchPayload_of_sinkAbsent hmem with ⟨args, rfl, hd⟩ | ⟨r, g, c, extra, rfl, hd⟩
  · exact .inl ⟨args, hp, hstep.trans (hd _ rfl)⟩
  · refine .inr ⟨r, g, c, extra, hp, (hstep.trans (hd _ rfl)).trans ?_⟩
    simp only [List.append_assoc, List.singleton_append]
    rfl

/-- Settles O45: the causes are `mem_byteConditions` and `mem_conditionsOf_decodePayload` for the condition in question;
and Q1, Q2 and a delivered payload, which Q3 to Q6 ask for, exclude each other by the flags and the byte. -/
theorem conditionsExcludeEachOther : Obligations.ConditionsExcludeEachOther := by
  intro s b
  refine ⟨ignIdle_mem_byteConditions s b, dropOverflow_mem_byteConditions s b, ?_, ?_, ?_, ?_, ?_, fun rest hin =>
    ⟨step_of_ignIdle hin, step_of_dropOverflow hin, fun ⟨c, hc, hd⟩ => step_of_ofDispatcher hin hc hd,
      step_of_sinkAbsent hin⟩,
    (List.length_filter_le _ _).trans (byteConditions_length_le s b), ?_, ?_⟩
  · simp [mem_byteConditions, mem_conditionsOf_decodePayload]
  · simp [mem_byteConditions, mem_conditionsOf_decodePayload]
  · simp [mem_byteConditions, mem_conditionsOf_decodePayload]
  · simp [mem_byteConditions, mem_conditionsOf_decodePayload]
  · simp [mem_byteConditions, mem_conditionsOf_decodePayload, and_left_comm]
  · rw [ignIdle_mem_byteConditions, dropOverflow_mem_byteConditions]
    rintro ⟨⟨hclosed, -⟩, hopen, -⟩
    simp [hclosed] at hopen
  · intro hq c hc
    refine Bool.eq_false_iff.2 fun hd => ?_
    obtain ⟨p, ⟨ho, he, rfl, -⟩, -⟩ := exists_delivers_of_ofDispatcher hc hd
    simp [ignIdle_mem_byteConditions, dropOverflow_mem_byteConditions, ho, he] at hq

/-! ### Reset beside a byte, and no byte at all (R173, R181) -/

/-- Settles O29: the byte offered beside a reset enters no step; the host's duty names it as the next one offered. -/
theorem resetWinsOverAnOfferedByte : Obligations.ResetWinsOverAnOfferedByte := by
  intro s b rest hin
  have hstep := step_reset s _ rest hin
  refine ⟨hstep.trans (step_reset { s with inputs := .reset none :: rest } none rest rfl).symm, hstep, fun hh => ?_⟩
  rw [hin, hostHolds, Bool.and_eq_true, beq_iff_eq] at hh
  obtain ⟨hheld, -⟩ := hh
  obtain ⟨u, hu, hoff⟩ := Option.bind_eq_some_iff.1 hheld
  exact ⟨_, u, hu, hoff, hstep, ⟨rfl, rfl, rfl⟩, rfl⟩

/-- Settles O32. -/
theorem nothingHappensWithoutAByte : Obligations.NothingHappensWithoutAByte := fun s rest =>
  ⟨step_nil s, step_idle s rest⟩

/-! ### Several endpoints (R179) -/

/-- The common reset leaves one endpoint in the state of reset, with its parameters and its number. -/
theorem takeJointReset_applyReset {s t : State} (h : takeJointReset s = .next t) :
    ∃ u : State, t = u.applyReset ∧ u.cfg = s.cfg ∧ u.endpoint = s.endpoint := by
  rcases takeJointReset_cases h with ⟨hr, hs⟩ | ⟨-, rfl⟩
  · obtain ⟨u, ht, hc, he, -⟩ := step_resetNext hr hs
    exact ⟨u, ht, hc, he⟩
  · exact ⟨s, rfl, rfl, rfl⟩

theorem State.Inv.takeJointReset_completes {s : State} (hi : s.Inv) : ∃ t, takeJointReset s = .next t := by
  unfold takeJointReset
  split
  · exact noStepStops s hi
  · exact ⟨_, rfl⟩

theorem resetTogether_getElem? {es es' : Endpoints} {j : Nat} {t : State} (h : resetTogether es = .next es')
    (ht : es[j]? = some t) : ∃ t', es'[j]? = some t' ∧ takeJointReset t = .next t' := by
  obtain ⟨hlen, hget⟩ := List.forall₂_iff_get.1 (resetTogether_forall₂ h)
  obtain ⟨hj, rfl⟩ := List.getElem?_eq_some_iff.1 ht
  have hj' : j < es'.length := hlen ▸ hj
  exact ⟨es'[j], List.getElem?_eq_getElem hj', hget j hj hj'⟩

/-- The invariant holds after the reset of all, from whatever states. -/
theorem resetTogether_inv {es es' : Endpoints} (h : resetTogether es = .next es') : ∀ s ∈ es', s.Inv := by
  intro t ht
  obtain ⟨hlen, hget⟩ := List.forall₂_iff_get.1 (resetTogether_forall₂ h)
  obtain ⟨j, hj, rfl⟩ := List.mem_iff_getElem.1 ht
  obtain ⟨u, hu, -⟩ := takeJointReset_applyReset (hget j (hlen ▸ hj) hj)
  rw [List.get_eq_getElem] at hu
  rw [hu]
  exact u.inv_applyReset

theorem resetTogether_endpoint {es es' : Endpoints} (h : resetTogether es = .next es') :
    es'.map State.endpoint = es.map State.endpoint := by
  refine Eq.symm ?_
  rw [← List.forall₂_eq_eq_eq, List.forall₂_map_left_iff, List.forall₂_map_right_iff]
  refine (resetTogether_forall₂ h).imp fun s t hst => ?_
  obtain ⟨u, rfl, -, he⟩ := takeJointReset_applyReset hst
  exact he.symm

theorem stepEndpoint_completes {es : Endpoints} (h : ∀ s ∈ es, s.Inv) (k : Nat) :
    ∃ es', stepEndpoint es k = .next es' := by
  cases hs : es[k]? with
  | none => exact ⟨es, by simp [stepEndpoint, hs]⟩
  | some s =>
    cases hr : s.resetNext
    · obtain ⟨t, ht⟩ := noStepStops s (h s (List.mem_of_getElem? hs))
      exact ⟨es.set k t, by simp [stepEndpoint, hs, hr, ht]⟩
    · obtain ⟨es', he⟩ := resetTogether_completes fun u hu => (h u hu).takeJointReset_completes
      exact ⟨es', by simp [stepEndpoint, hs, hr, he]⟩

/-- Settles O55: every endpoint takes the joint reset, which leaves each in the state of reset. -/
theorem endpointsAreResetTogether : Obligations.EndpointsAreResetTogether := by
  refine ⟨fun cfgs => ⟨by simp [resetEndpoints], fun k c hc => by simp [resetEndpoints, hc]⟩, ?_⟩
  intro es es' k s hs hr h
  have hall : resetTogether es = .next es' := by
    simpa [stepEndpoint, hs, hr] using h
  refine ⟨(resetTogether_forall₂ hall).length_eq.symm, fun j t ht => ?_⟩
  obtain ⟨t', ht', hjoint⟩ := resetTogether_getElem? hall ht
  obtain ⟨u, rfl, hcfg, -⟩ := takeJointReset_applyReset hjoint
  refine ⟨_, ht', ⟨rfl, rfl, rfl⟩, rfl, rfl, rfl, hcfg, ?_⟩
  rcases takeJointReset_cases hjoint with ⟨hown, hstep⟩ | ⟨hnot, heq⟩
  · exact ⟨fun _ => hstep, fun hnot => by simp [hown] at hnot⟩
  · exact ⟨fun hown => by simp [hnot] at hown, fun _ => by simp [heq]⟩

/-- Settles O56: the step of one endpoint is nothing, the reset of all, or a step of its own. -/
theorem endpointStepsComplete : Obligations.EndpointStepsComplete := by
  intro es k hi
  obtain ⟨es', h⟩ := stepEndpoint_completes hi k
  refine ⟨es', h, ?_⟩
  rcases stepEndpoint_cases h with ⟨-, rfl⟩ | ⟨s, -, -, hall⟩ | ⟨s, t, hs, -, hstep, rfl⟩
  · exact ⟨hi, rfl⟩
  · exact ⟨resetTogether_inv hall, resetTogether_endpoint hall⟩
  · constructor
    · intro u hu
      rcases List.mem_or_eq_of_mem_set hu with hmem | rfl
      · exact hi u hmem
      · exact everyStepKeepsTheStateInvariant s u (hi s (List.mem_of_getElem? hs)) hstep
    · obtain ⟨hk, rfl⟩ := List.getElem?_eq_some_iff.1 hs
      have hself : (es.map State.endpoint)[k]'(by simpa using hk) = t.endpoint := by
        rw [List.getElem_map, step_endpoint hstep]
      rw [List.map_set, ← hself, List.set_getElem_self]

/-- Settles O46: without a reset the step of endpoint `k` writes the place `k` only. -/
theorem endpointsAreIndependent : Obligations.EndpointsAreIndependent := by
  intro es es' k h hnot
  rcases stepEndpoint_cases h with ⟨hnone, rfl⟩ | ⟨s, hs, hr, -⟩ | ⟨s, t, hs, -, hstep, rfl⟩
  · exact ⟨rfl, fun _ _ => rfl, fun s hs => by simp [hnone] at hs⟩
  · simp [hnot s hs] at hr
  · obtain ⟨hk, -⟩ := List.getElem?_eq_some_iff.1 hs
    refine ⟨List.length_set, fun j hj => List.getElem?_set_ne hj.symm, fun u hu => ?_⟩
    cases hs.symm.trans hu
    exact ⟨t, hstep, List.getElem?_set_self hk⟩

end Sys2Proof.Machine

/-! # Reset (spec/70_reset_and_hazards.md): between two steps, and inside one -/

namespace Sys2Proof.Machine

/-- A step keeps the events before it: `stepEvents` leaves out none and only adds. -/
theorem step_trace_eq_append_stepEvents {s t : State} (h : step s = .next t) : t.trace = s.trace ++ stepEvents s t := by
  obtain ⟨es, he, -⟩ := atMostSevenEventsAStep s t h
  rw [stepEvents_of_trace_append he, he]

/-- Settles O28: the cut keeps the free number of events of the whole step, and RESET, which runs on the state before
that step, adds none and clears the rest. -/
theorem resetInsideAStepLeavesAPrefix : Obligations.ResetInsideAStepLeavesAPrefix := by
  intro s whole b rest hin hwhole
  have haccept : acceptByte b { s with inputs := rest } = .next whole :=
    (step_byte { s with inputs := .byte b :: rest } b rest rfl).symm.trans hwhole
  have hcut : step s = .next (({ s with inputs := rest } : State).cutTrace whole).applyReset :=
    (step_cut s b rest hin).trans (acceptByteCut_of_next haccept)
  have htrace : whole.trace = s.trace ++ stepEvents s whole :=
    step_trace_eq_append_stepEvents (s := { s with inputs := .byte b :: rest }) hwhole
  exact ⟨_, Config.freeCut s.endpoint s.draws, hcut, rfl, htrace, rfl, rfl, rfl, rfl, rfl, rfl, rfl, rfl⟩

/-- Settles O26: the one answer of RESET is `applyReset`, which writes no event. -/
theorem resetSetsEveryFieldAndProducesNoEvent : Obligations.ResetSetsEveryFieldAndProducesNoEvent := fun s =>
  ⟨s.applyReset, rfl, s.applyReset_frameOpen, s.applyReset_escapePending, s.applyReset_writeCursor, s.applyReset_colorR,
    s.applyReset_colorG, s.applyReset_colorB, s.applyReset_trace⟩

end Sys2Proof.Machine
